-- ==== Sys2Proof/Word.lean ====
section
/-! DEFINITION. The value widths of 00_scope.md R6 and the table selector of 30_encoding.md R47. No value of this hardware is signed. -/

namespace Sys2Proof

/-- A command word and a read-port value (R34, R46): 32 bits. -/
abbrev Word := BitVec 32

/-- A CRC value, open or closed (R53): 32 bits unsigned. -/
abbrev Crc := BitVec 32

/-- A pushed or folded byte (R6): 8 bits unsigned. -/
abbrev Byte := BitVec 8

/-- A window size or a slot index (R5, R14, R18): 24 bits unsigned. -/
abbrev WindowSize := BitVec 24

/-- `COUNT` and `RPOS` (R19, R23): 64 bits unsigned. -/
abbrev Count := BitVec 64

/-- A read-port register number (R30, R34): 8 bits. -/
abbrev RegNumber := BitVec 8

/-- The table an `RDTAB` reads: `S = 0` is `BASE`, `S = 1` is `ROLL` (R47). -/
inductive TableSel where
  | base
  | roll
deriving DecidableEq, Repr

end Sys2Proof
end

