-- ==== Sys2Proof/Config.lean ====
section
/-! DEFINITION. The implementation parameters of 00_scope.md R5. -/

namespace Sys2Proof

/-- The parameter a rule reads: `MAX_WINDOW`, OPEN (R5, 92_eei_decisions.md D5). It is fixed for one block; State carries it
so that every statement about all states holds for every value of it (log 3). Its 24 bits give `MAX_WINDOW <= 2^24 - 1`. -/
structure Config where
  maxWindow : WindowSize
deriving DecidableEq, Repr

namespace Config

/-- `1 <= MAX_WINDOW` (R5). -/
abbrev valid (c : Config) : Prop := 1 ≤ c.maxWindow.toNat

/-- The reference value 4096 of R5, which the spec uses for its test vectors only. DESIGN CHOICE for `State.reset` (log 3). -/
def reference : Config := { maxWindow := 4096 }

/-- `INIT`, the initialisation and finalisation constant (R5). -/
def init : Crc := 0xFFFFFFFF

/-- `BUSY_LATENCY`, OPEN, "never read by any rule" (R5; log 4). -/
opaque busyLatency : Nat

/-- `PORT_BASE`, OPEN, "no rule reads it" (R5, R34; log 4). -/
opaque portBase : Nat

/-- What a read of a register other than `STATUS` answers while `BUSY = 1`: any 32-bit value
(93_implementation_defined.md part 1 item 13; log 8). No reachable state has `BUSY = 1`. -/
opaque busyRead : RegNumber → Word

end Config

end Sys2Proof
end

