-- ==== Sys2Proof/Syntax.lean ====
section
/-! DEFINITION. The commands of RCE command set version 1: one constructor per row of spec/opcode_table.json (30_encoding.md R48). -/

namespace Sys2Proof

/-- A command, its operands as the fields of R47. -/
inductive Instr where
  /-- `NOP`, format Z (R81). -/
  | nop
  /-- `CFG W`, format W (R66). -/
  | cfg (w : WindowSize)
  /-- `PUSH B`, format B (R72). -/
  | push (b : Byte)
  /-- `SRST`, format Z (R74). -/
  | srst
  /-- `CKINIT`, format Z (R68). -/
  | ckinit
  /-- `CKBYTE B`, format B (R69). -/
  | ckbyte (b : Byte)
  /-- `RDTAB S, I`, format T (R65). -/
  | rdtab (sel : TableSel) (index : Byte)
  /-- `CLRERR`, format Z (R82). -/
  | clrerr
deriving DecidableEq, Repr

end Sys2Proof
end

