-- ==== Sys2Proof/WellFormed.lean ====
section
/-! DEFINITION. Operand ranges: of a command (they hold by the operands' types) and of an assembler line, whose numbers are
unbounded and are refused, not truncated, when out of range (30_encoding.md R51). -/

namespace Sys2Proof

/-- The operand of a command as a number (R47): `RDTAB`'s is `S` over `I`. -/
def Instr.operand : Instr → Nat
  | .nop => 0
  | .cfg w => w.toNat
  | .push b => b.toNat
  | .srst => 0
  | .ckinit => 0
  | .ckbyte b => b.toNat
  | .rdtab .base i => i.toNat
  | .rdtab .roll i => 256 + i.toNat
  | .clrerr => 0

/-- How many bits the command's format gives its operand (R46). -/
def Instr.operandBits : Instr → Nat
  | .nop => 0
  | .cfg _ => 24
  | .push _ => 8
  | .srst => 0
  | .ckinit => 0
  | .ckbyte _ => 8
  | .rdtab _ _ => 9
  | .clrerr => 0

/-- The operand fits its field, so the format's reserved bits are 0 (R46). `Laws.Instr_wf` proves it of every command. -/
def Instr.wf (i : Instr) : Bool := decide (i.operand < 2 ^ i.operandBits)

/-- A read-port register by name (10_state.md R30). -/
inductive PortReg where
  | status | result | rposLo | rposHi | ckresult | wsize | countLo | countHi | cursor | tdata | maxwin
deriving DecidableEq, Repr

/-- One line of a program text (30_encoding.md R51) or a pseudo-instruction (R52), as written: numbers are not yet checked. -/
inductive AsmLine where
  | nop
  | cfg (w : Nat)
  | push (b : Nat)
  | srst
  | ckinit
  | ckbyte (b : Nat)
  | rdtab (sel : TableSel) (i : Nat)
  | clrerr
  /-- `.word x`: the word as is (R51). -/
  | word (x : Nat)
  /-- `CFGNEW w`, a synonym of `CFG w` (R52). -/
  | cfgnew (w : Nat)
  /-- `PUSHS "s"` (R52). -/
  | pushs (s : List Byte)
  /-- `CKSUM "s"` (R52). -/
  | cksum (s : List Byte)
  /-- `READ name`, a host operation, no command word (R51, R83). -/
  | read (r : PortReg)
  /-- `RESET`, a host operation, no command word (R51, R102). -/
  | reset
deriving DecidableEq, Repr

/-- "An assembler refuses an operand out of range ... rather than truncating it" (R51). -/
def AsmLine.wf : AsmLine → Bool
  | .nop => true
  | .cfg w => decide (w ≤ 0xFFFFFF)
  | .push b => decide (b ≤ 0xFF)
  | .srst => true
  | .ckinit => true
  | .ckbyte b => decide (b ≤ 0xFF)
  | .rdtab _ i => decide (i ≤ 0xFF)
  | .clrerr => true
  | .word x => decide (x ≤ 0xFFFFFFFF)
  | .cfgnew w => decide (w ≤ 0xFFFFFF)
  | .pushs _ => true
  | .cksum _ => true
  | .read _ => true
  | .reset => true

end Sys2Proof
end

