-- ==== Sys2Proof/Decode.lean ====
section
/-! DEFINITION. Decoding and encoding of command words (30_encoding.md R46 to R50). -/

namespace Sys2Proof

/-- One row of the opcode map (R48): the word `cmd` is this row's command when `cmd & mask = pattern`. -/
structure OpcodeRow where
  mnemonic : String
  pattern : Word
  mask : Word
deriving DecidableEq, Repr

/-- The row matches the word (R48). -/
def OpcodeRow.matches (r : OpcodeRow) (cmd : Word) : Bool := (cmd &&& r.mask) == r.pattern

def rowNop : OpcodeRow := ⟨"NOP", 0x00000000, 0xFFFFFFFF⟩
def rowCfg : OpcodeRow := ⟨"CFG", 0x10000000, 0xFF000000⟩
def rowPush : OpcodeRow := ⟨"PUSH", 0x20000000, 0xFFFFFF00⟩
def rowSrst : OpcodeRow := ⟨"SRST", 0x30000000, 0xFFFFFFFF⟩
def rowCkinit : OpcodeRow := ⟨"CKINIT", 0x40000000, 0xFFFFFFFF⟩
def rowCkbyte : OpcodeRow := ⟨"CKBYTE", 0x50000000, 0xFFFFFF00⟩
def rowRdtab : OpcodeRow := ⟨"RDTAB", 0x60000000, 0xFFFFFE00⟩
def rowClrerr : OpcodeRow := ⟨"CLRERR", 0x70000000, 0xFFFFFFFF⟩

/-- The opcode map of R48, in its order. -/
def opcodeTable : List OpcodeRow :=
  [rowNop, rowCfg, rowPush, rowSrst, rowCkinit, rowCkbyte, rowRdtab, rowClrerr]

/-- `OP = cmd[31:28]` (R46). -/
def opField (cmd : Word) : BitVec 4 := cmd.extractLsb' 28 4

/-- `B = cmd[7:0]` (R46, format B). -/
def byteField (cmd : Word) : Byte := cmd.extractLsb' 0 8

/-- `W = cmd[23:0]` (R46, format W). -/
def windowField (cmd : Word) : WindowSize := cmd.extractLsb' 0 24

/-- `S = cmd[8]` (R46, format T): 0 selects `BASE`, 1 selects `ROLL` (R47). -/
def selectField (cmd : Word) : TableSel := if cmd.getLsbD 8 then .roll else .base

/-- `I = cmd[7:0]` (R46, format T). -/
def indexField (cmd : Word) : Byte := cmd.extractLsb' 0 8

/-- Why a word is no command (R49). -/
inductive DecodeError where
  /-- `OP` is 0x8 to 0xF. -/
  | reservedOpcode
  /-- `OP` is 0x0 to 0x7 and one of its format's reserved bits is 1. -/
  | reservedBits
deriving DecidableEq, Repr

/-- The command a word encodes: the one row of R48 that matches, with the fields of R47; otherwise the word is illegal (R49).
The rows are tried in the table's order; at most one matches. -/
def decode (cmd : Word) : Except DecodeError Instr :=
  if rowNop.matches cmd then .ok .nop
  else if rowCfg.matches cmd then .ok (.cfg (windowField cmd))
  else if rowPush.matches cmd then .ok (.push (byteField cmd))
  else if rowSrst.matches cmd then .ok .srst
  else if rowCkinit.matches cmd then .ok .ckinit
  else if rowCkbyte.matches cmd then .ok (.ckbyte (byteField cmd))
  else if rowRdtab.matches cmd then .ok (.rdtab (selectField cmd) (indexField cmd))
  else if rowClrerr.matches cmd then .ok .clrerr
  else if 8 ≤ (opField cmd).toNat then .error .reservedOpcode
  else .error .reservedBits

/-- The word of a command, as R51 writes it. -/
def encode : Instr → Word
  | .nop => 0x00000000
  | .cfg w => 0x10000000 ||| w.setWidth 32
  | .push b => 0x20000000 ||| b.setWidth 32
  | .srst => 0x30000000
  | .ckinit => 0x40000000
  | .ckbyte b => 0x50000000 ||| b.setWidth 32
  | .rdtab .base i => 0x60000000 ||| i.setWidth 32
  | .rdtab .roll i => 0x60000100 ||| i.setWidth 32
  | .clrerr => 0x70000000

/-- The row of R48 a command belongs to. -/
def Instr.row : Instr → OpcodeRow
  | .nop => rowNop
  | .cfg _ => rowCfg
  | .push _ => rowPush
  | .srst => rowSrst
  | .ckinit => rowCkinit
  | .ckbyte _ => rowCkbyte
  | .rdtab _ _ => rowRdtab
  | .clrerr => rowClrerr

/-- The low `nbits` bits of `w`. Every command is one whole 32-bit word crossing the port at once, so no byte order enters
(R37, R46; log 15). -/
def tableBits (nbits w : Nat) : Nat := w % 2 ^ nbits

/-- The command the decoder reads from a word numbered as spec/opcode_table.json numbers it: one 32-bit word, `none` for an
illegal word and for anything longer than a word (R50; log 15). -/
def decodeTableWord (nbits w : Nat) : Option Instr :=
  if tableBits nbits w < 2 ^ 32 then
    match decode (BitVec.ofNat 32 (tableBits nbits w)) with
    | .ok i => some i
    | .error _ => none
  else none

end Sys2Proof
end

