-- ==== Sys2Proof/Machine/State.lean ====
section
/-! DEFINITION. The state of one block instance (10_state.md R11), its reset, and the reasons a step can stop. -/

namespace Sys2Proof.Machine

/-- The window buffer as sparse data: (slot, byte) pairs, slots strictly rising; a slot not listed is `unwritten` (R17;
log 11). The operations on it are in Machine/Memory.lean. -/
abbrev Memory := List Host.Cell

/-- What a host sends to the block: a command word on the command port (R34), or the hardware reset signal (R102). A register
read is not here: it is no step and changes no state (R10, R83; log 14). -/
inductive PortEvent where
  | command (cmd : Word)
  | reset
deriving DecidableEq, Repr

/-- The architectural state of R11, field by field, with the parameter of R5 and the host's undelivered events. -/
structure State where
  /-- `MAX_WINDOW` (R5), constant: no step writes it (log 3). -/
  config : Config
  /-- `WSIZE` (R14). -/
  wsize : WindowSize
  /-- `ROLL[0..255]` (R16). -/
  roll : Vector Crc 256
  /-- `WIN[0..MAX_WINDOW-1]` (R17). -/
  win : Memory
  /-- `CURSOR` (R18). -/
  cursor : WindowSize
  /-- `COUNT` (R19). -/
  count : Count
  /-- `LAST_OPEN` (R20). -/
  lastOpen : Crc
  /-- `LAST_VALID` (R20). -/
  lastValid : Bool
  /-- `RVALID` (R21). -/
  rvalid : Bool
  /-- `RESULT` (R22). -/
  result : Crc
  /-- `RPOS` (R23). -/
  rpos : Count
  /-- `CKACC` (R24). -/
  ckacc : Crc
  /-- `TDATA` (R25). -/
  tdata : Word
  /-- `ERR_ILLEGAL` (R26). -/
  errIllegal : Bool
  /-- `ERR_WSIZE` (R26). -/
  errWsize : Bool
  /-- `ERR_COUNT` (R26). -/
  errCount : Bool
  /-- `ERR_FATAL` (R26, R90). -/
  errFatal : Bool
  /-- `BUSY` (R27): 0 at every step boundary of a run. -/
  busy : Bool
  /-- The MODEL's own field: what the host has sent and the block has not taken yet, oldest first (R13; log 1). -/
  port : List PortEvent
deriving DecidableEq, Repr

/-- The reset state of R102 for a block with parameter `c`, nothing sent by the host yet. -/
def State.resetWith (c : Config) : State where
  config := c
  wsize := 0
  roll := Vector.replicate 256 0
  win := []
  cursor := 0
  count := 0
  lastOpen := 0
  lastValid := false
  rvalid := false
  result := 0
  rpos := 0
  ckacc := Config.init
  tdata := 0
  errIllegal := false
  errWsize := false
  errCount := false
  errFatal := false
  busy := false
  port := []

/-- The machine right after hardware reset (R102), with the spec's reference `MAX_WINDOW` (log 3). -/
def State.reset : State := State.resetWith Config.reference

/-- Why the machine stops with a fault. -/
inductive Fault where
  /-- Raised by `PUSH` when the `WIN` slot it must read or write is not below `MAX_WINDOW`, so does not exist (R17, R35).
  Safe: no reachable state raises it (log 6). -/
  | windowSlotAbsent
deriving DecidableEq, Repr

/-- Why a step has no meaning. -/
inductive Refusal where
  /-- Raised by an arm of `exec` whose instruction has no meaning yet. Safe. No arm raises it. -/
  | notModelled (mnemonic : String)
  /-- Raised by `step` for a command written while `BUSY = 1`: "outside its admitted runs" (R105, 93_implementation_defined.md
  part 1 item 12). Safe: no reachable state has `BUSY = 1` (log 7). -/
  | commandWhileBusy
  /-- Raised by `step` for a state with `BUSY = 1` and nothing to take: the model has no such step boundary (R27, R105). DESIGN
  CHOICE that it is refused (log 7). Safe: no reachable state has `BUSY = 1`. -/
  | busyAtStepBoundary
deriving DecidableEq, Repr

/-- The three outcomes of a step over this machine. -/
abbrev Result := Host.Outcome State Fault Refusal

end Sys2Proof.Machine
end

