-- ==== Sys2Proof/Machine/Memory.lean ====
section
/-! DEFINITION. The window buffer `WIN` (10_state.md R17): its canonical form, and reading and writing one slot. -/

namespace Sys2Proof.Machine

/-- The canonical form: slots strictly rising. An unlisted slot is `unwritten`, which is no byte, so no entry can equal it
(R17; log 11). -/
abbrev Memory.wf (m : Memory) : Prop := m.Pairwise (fun x y => x.1 < y.1)

/-- Every slot `unwritten` (R71). -/
def Memory.empty : Memory := []

/-- The byte in a slot, or `none` when it is `unwritten` (R17). -/
def Memory.read : Memory → Nat → Option Byte
  | [], _ => none
  | (k, v) :: m, slot => if k = slot then some v else Memory.read m slot

/-- Store a byte in a slot, in order, replacing what the slot holds. -/
def Memory.write : Memory → Nat → Byte → Memory
  | [], slot, b => [(slot, b)]
  | (k, v) :: m, slot, b =>
    if slot < k then (slot, b) :: (k, v) :: m
    else if slot = k then (slot, b) :: m
    else (k, v) :: Memory.write m slot b

/-- The bytes of the listed slots in the given order, or `none` when one of them is `unwritten` (R72, First-Full; R32). -/
def Memory.readSlots (m : Memory) : List Nat → Option (List Byte)
  | [] => some []
  | slot :: rest =>
    match m.read slot, Memory.readSlots m rest with
    | some b, some bs => some (b :: bs)
    | _, _ => none

/-- The written slots, in rising order (R31 item 1). -/
def Memory.slots (m : Memory) : List Nat := m.map Prod.fst

end Sys2Proof.Machine
end

