-- ==== Sys2Proof/Machine/Flags.lean ====
section
/-! DEFINITION. The computed status: the phase (10_state.md R29) and the STATUS word (R28). -/

namespace Sys2Proof.Machine

/-- The source's states between steps (R29); `0b11` is never produced. -/
inductive Phase where
  | zeroWindow
  | filling
  | full
deriving DecidableEq, Repr

/-- `STATUS.PHASE` codes (R29). -/
def Phase.code : Phase → BitVec 2
  | .zeroWindow => 0b00
  | .filling => 0b01
  | .full => 0b10

/-- The phase of a state, from `COUNT` and `WSIZE` (R29). -/
def State.phase (s : State) : Phase :=
  if s.wsize.toNat = 0 then .zeroWindow
  else if s.count.toNat < s.wsize.toNat then .filling
  else .full

/-- A flag as a 32-bit number. -/
def flagBit (f : Bool) : Word := (BitVec.ofBool f).setWidth 32

/-- `STATUS` (R28). -/
def State.status (s : State) : Word :=
  flagBit s.rvalid ||| (flagBit s.busy <<< 1) ||| (s.phase.code.setWidth 32 <<< 2) ||| (flagBit s.errIllegal <<< 4)
    ||| (flagBit s.errWsize <<< 5) ||| (flagBit s.errCount <<< 6) ||| (flagBit s.errFatal <<< 7)

end Sys2Proof.Machine
end

