-- ==== Sys2Proof/Machine/Crc.lean ====
section
/-! DEFINITION. CRC arithmetic (40_crc_tables.md R53 to R62): the open and closed forms, the base table, the update rule, the fold,
the rolling table. -/

namespace Sys2Proof.Machine

namespace Crc

/-- `close(o) = o XOR INIT`; `open` is the same function (R53). -/
def close (o : Crc) : Crc := o ^^^ Config.init

/-- `POLY`, the reflected generator polynomial (R5, R57; supplied by the spec from general knowledge, log 16). -/
def poly : Crc := 0xEDB88320

/-- One shift-and-conditional-XOR step (R57). -/
def shiftStep (c : Crc) : Crc :=
  if c.getLsbD 0 then (c >>> 1) ^^^ poly else c >>> 1

/-- `k` such steps. -/
def shiftSteps : Nat → Crc → Crc
  | 0, c => c
  | k + 1, c => shiftSteps k (shiftStep c)

/-- `BaseEntry(n)`, the contents of the ROM `BASE` (R57, R15). -/
def baseEntry (n : Byte) : Crc := shiftSteps 8 (n.setWidth 32)

/-- The single-byte update rule (R54). -/
def upd (a : Crc) (c : Byte) : Crc :=
  baseEntry ((a ^^^ c.setWidth 32).setWidth 8) ^^^ (a >>> 8)

/-- The fold of a byte sequence from a seed (R55). -/
def fold : Crc → List Byte → Crc
  | s, [] => s
  | s, c :: m => fold (upd s c) m

/-- `checksum(M)`, closed (R56). -/
def checksum (m : List Byte) : Crc := close (fold Config.init m)

/-- `zeros(n)` (R8). -/
def zeros (n : Nat) : List Byte := List.replicate n 0

/-- `Z_n(s)`, the effect of `n` zero bytes on a seed (R60). -/
def zeroBytes (n : Nat) (s : Crc) : Crc := fold s (zeros n)

/-- `RollEntry(w, x)`, the corrected formula (R61, 90_conflicts.md C1). -/
def rollEntry (w : Nat) (x : Byte) : Crc :=
  fold Config.init ([x] ++ zeros w) ^^^ fold Config.init (zeros w)

/-- `RollTable(w)`; all zeros for `w = 0` (R62). -/
def rollTable (w : Nat) : Vector Crc 256 :=
  if w = 0 then Vector.replicate 256 0
  else Vector.ofFn (fun x : Fin 256 => rollEntry w (BitVec.ofFin x))

/-- The single-bit entries of the second construction, `D[2^k]` for `k = 7 - j` (R59): from `D[0x80]` down, one halving step
each. -/
def doublingPower : Nat → Crc
  | 0 => baseEntry 0x80
  | j + 1 =>
    let t := doublingPower j
    if t.getLsbD 0 then (t >>> 1) ^^^ poly else t >>> 1

/-- `D[n]`, the bootstrap-doubling construction (R59): the XOR over the set bits `k` of `n` of `D[2^k]`. The model uses
`baseEntry`; that the two agree is a law. -/
def doublingEntry (n : Byte) : Crc :=
  (List.range 8).foldl (fun acc k => if n.getLsbD k then acc ^^^ doublingPower (7 - k) else acc) 0

end Crc

end Sys2Proof.Machine
end

