-- ==== Sys2Proof/Machine/Operands.lean ====
section
/-! DEFINITION. What an operand reaches: a table entry (formats B and T, 20_memory.md R35) and a window slot. -/

namespace Sys2Proof.Machine

/-- `ROLL[i]` (R16): the index is a byte, so always in range (R35). -/
def State.rollRead (s : State) (i : Byte) : Crc := s.roll[i.toFin]

/-- The entry `RDTAB S, I` reads (R47, R65): `BASE[I]`, a ROM (R15, log 12), or `ROLL[I]`. -/
def State.tableEntry (s : State) : TableSel → Byte → Crc
  | .base, i => Crc.baseEntry i
  | .roll, i => s.rollRead i

/-- Slot `i` of `WIN[0..MAX_WINDOW-1]` exists (R11, R17). -/
def State.slotExists (s : State) (i : Nat) : Bool := decide (i < s.config.maxWindow.toNat)

/-- The bytes pushed and still in the window, oldest first (R32): `WIN[(CURSOR + i) mod w]` when the window is full,
`WIN[0..COUNT-1]` while it fills; `none` when one of those slots is `unwritten`, which no reachable state has. For `w = 0` it
is empty. -/
def State.logicalWindow (s : State) : Option (List Byte) :=
  if s.count.toNat < s.wsize.toNat then s.win.readSlots (List.range s.count.toNat)
  else s.win.readSlots ((List.range s.wsize.toNat).map fun i => (s.cursor.toNat + i) % s.wsize.toNat)

end Sys2Proof.Machine
end

