-- ==== Sys2Proof/Machine/Ops.lean ====
section
/-! DEFINITION. The shared operations: raising an error and recovering from it (60_exceptions.md R88 to R94), the two resets
(42_engine.md R71, 70_reset_and_hazards.md R102), taking an event from the command port, and the register reads of the read
port (10_state.md R30). -/

namespace Sys2Proof.Machine

/-- The four error conditions (R88). -/
inductive ErrorKind where
  | illegalCommand
  | windowTooLarge
  | countOverflow
  | invariantBreach
deriving DecidableEq, Repr

/-- The code of an error is the index of its `STATUS` bit (R88). -/
def ErrorKind.code : ErrorKind → Nat
  | .illegalCommand => 4
  | .windowTooLarge => 5
  | .countOverflow => 6
  | .invariantBreach => 7

/-- `raise e`: set the error's sticky flag, and nothing else (R9, R89). No pc, mode or status is saved: errors do not trap
(R93). -/
def raise (e : ErrorKind) (s : State) : State :=
  match e with
  | .illegalCommand => { s with errIllegal := true }
  | .windowTooLarge => { s with errWsize := true }
  | .countOverflow => { s with errCount := true }
  | .invariantBreach => { s with errFatal := true }

/-- The recovery `CLRERR` makes (R82, R94): the two recoverable flags. -/
def clearRecoverable (s : State) : State := { s with errIllegal := false, errWsize := false }

/-- While `ERR_FATAL = 1` the block ignores every command, legal or not (R90, R92 item 1); otherwise the command runs. -/
def unlessFatal (s : State) (command : Result) : Result :=
  if s.errFatal then .next s else command

/-- A word that encodes no command raises `IllegalCommand` (R49, R92 items 1 and 2). -/
def execIllegal (s : State) : Result := unlessFatal s (.next (raise .illegalCommand s))

/-- `StreamReset()` (R71). -/
def streamReset (s : State) : State :=
  { s with
    count := 0
    cursor := 0
    lastOpen := 0x00000000
    lastValid := false
    win := Memory.empty
    rvalid := false
    result := 0x00000000
    rpos := 0
    errCount := false }

/-- `HardwareReset()` (R102). What the host has sent after it stays sent (log 10). -/
def hardwareReset (s : State) : State :=
  let t := streamReset { s with wsize := 0, roll := Crc.rollTable 0 }
  { t with
    ckacc := Config.init
    tdata := 0x00000000
    errIllegal := false
    errWsize := false
    errCount := false
    errFatal := false
    busy := false }

/-- What the block finds at its ports when it is ready for a step. -/
inductive Fetch where
  /-- Nothing sent: the block is idle and holds all state (R101). -/
  | idle
  /-- Hardware reset, with the event taken. -/
  | reset (s : State)
  /-- A command word, with the event taken. -/
  | command (cmd : Word) (s : State)
  /-- Outside every admitted run (R105). -/
  | stop (r : Refusal)
deriving DecidableEq, Repr

/-- Take the oldest event (R41). Hardware reset is taken at any time (R102); a command only while `BUSY = 0` (R105). -/
def fetch (s : State) : Fetch :=
  match s.port with
  | [] => if s.busy then .stop .busyAtStepBoundary else .idle
  | .reset :: rest => .reset { s with port := rest }
  | .command cmd :: rest =>
    if s.busy then .stop .commandWhileBusy else .command cmd { s with port := rest }

/-- The host sends an event: it arrives after all those sent before (R41). -/
def State.deliver (s : State) (e : PortEvent) : State := { s with port := s.port ++ [e] }

/-- Put a command word where the next step takes its command: oldest at the port of a ready block (log 2). -/
def State.atPort (s : State) (cmd : Word) : State := { s with port := .command cmd :: s.port, busy := false }

/-- The read-port number of a register (R30). -/
def portNumber : PortReg → RegNumber
  | .status => 0x00
  | .result => 0x01
  | .rposLo => 0x02
  | .rposHi => 0x03
  | .ckresult => 0x04
  | .wsize => 0x05
  | .countLo => 0x06
  | .countHi => 0x07
  | .cursor => 0x08
  | .tdata => 0x09
  | .maxwin => 0x0A

/-- The value of a read-port register at a step boundary (R30). -/
def State.portValue (s : State) : PortReg → Word
  | .status => s.status
  | .result => s.result
  | .rposLo => s.rpos.extractLsb' 0 32
  | .rposHi => s.rpos.extractLsb' 32 32
  | .ckresult => Crc.close s.ckacc
  | .wsize => s.wsize.setWidth 32
  | .countLo => s.count.extractLsb' 0 32
  | .countHi => s.count.extractLsb' 32 32
  | .cursor => s.cursor.setWidth 32
  | .tdata => s.tdata
  | .maxwin => s.config.maxWindow.setWidth 32

/-- The register with a number; 0x0B to 0xFF are reserved (R30). -/
def portReg? (r : RegNumber) : Option PortReg :=
  [PortReg.status, .result, .rposLo, .rposHi, .ckresult, .wsize, .countLo, .countHi, .cursor, .tdata, .maxwin][r.toNat]?

/-- `READ r` (R83): the value of R30, reserved numbers 0; a function of the state, so it changes none. While `BUSY = 1` only
`STATUS` can be relied on (R105) and any other read is a free value (log 8). -/
def readPort (s : State) (r : RegNumber) : Word :=
  if s.busy && r != portNumber .status then Config.busyRead r
  else
    match portReg? r with
    | some reg => s.portValue reg
    | none => 0x00000000

end Sys2Proof.Machine
end

