-- ==== Sys2Proof/Machine/Context.lean ====
section
/-! DEFINITION. Configuration, `CFG` (41_context_and_fold.md R66). -/

namespace Sys2Proof.Machine

/-- An accepted `CFG`: the window size, its rolling table, a fresh stream (R66). -/
def configure (w : WindowSize) (s : State) : State :=
  streamReset { s with wsize := w, roll := Crc.rollTable w.toNat }

/-- `CFG W` (R66). -/
def execCfg (w : WindowSize) (s : State) : Result :=
  unlessFatal s <|
    if s.config.maxWindow.toNat < w.toNat then .next (raise .windowTooLarge s)
    else .next (configure w s)

end Sys2Proof.Machine
end

