-- ==== Sys2Proof/Machine/Control.lean ====
section
/-! DEFINITION. The control commands `NOP` (43_control_and_host.md R81) and `CLRERR` (R82). -/

namespace Sys2Proof.Machine

/-- `NOP`: no state changes (R81). -/
def execNop (s : State) : Result := unlessFatal s (.next s)

/-- `CLRERR` (R82). -/
def execClrerr (s : State) : Result := unlessFatal s (.next (clearRecoverable s))

end Sys2Proof.Machine
end

