-- ==== Sys2Proof/Machine/Engine.lean ====
section
/-! DEFINITION. The rolling engine: `PUSH` (42_engine.md R72) and `SRST` (R74). -/

namespace Sys2Proof.Machine

/-- `SRST` (R74). -/
def execSrst (s : State) : Result := unlessFatal s (.next (streamReset s))

/-- What a yielding push of post-increment count `n` reports for the open CRC `o` (R72): the closed value, the position
`n - w`, and `RVALID`. -/
def report (n : Nat) (o : Crc) (s : State) : State :=
  { s with
    lastOpen := o
    result := Crc.close o
    rpos := BitVec.ofNat 64 (n - s.wsize.toNat)
    rvalid := true }

/-- `COUNT <- n` (R72 step 2). -/
def setCount (n : Nat) (s : State) : State := { s with count := BitVec.ofNat 64 n }

/-- The zero-window case of R72: only the count and `RVALID`. -/
def pushZeroWindow (n : Nat) (s : State) : Result := .next { setCount n s with rvalid := false }

/-- The Filling case of R72: `WIN[n-1] <- B`, no checksum. -/
def pushFilling (b : Byte) (n : Nat) (s : State) : Result :=
  if s.slotExists (n - 1) then
    .next { setCount n s with win := s.win.write (n - 1) b, rvalid := false }
  else .fault .windowSlotAbsent

/-- The First-Full case of R72: `WIN[w-1] <- B`, then the full fold over `WIN[0..w-1]`; an `unwritten` slot among them is a
breach, and then nothing else takes effect (R89). -/
def pushFirstFull (b : Byte) (n : Nat) (s : State) : Result :=
  let w := s.wsize.toNat
  let win := s.win.write (w - 1) b
  if s.slotExists (w - 1) then
    match win.readSlots (List.range w) with
    | some bytes =>
      .next { report n (Crc.fold Config.init bytes) (setCount n s) with win := win, lastValid := true }
    | none => .next (raise .invariantBreach s)
  else .fault .windowSlotAbsent

/-- The Rolling case of R72: evict `WIN[CURSOR]` through `ROLL`, store the new byte there, advance the cursor. -/
def pushRolling (b : Byte) (n : Nat) (s : State) : Result :=
  let w := s.wsize.toNat
  let slot := s.cursor.toNat
  if s.lastValid = false then .next (raise .invariantBreach s)
  else if s.slotExists slot then
    match s.win.read slot with
    | some evicted =>
      .next { report n (Crc.upd s.lastOpen b ^^^ s.rollRead evicted) (setCount n s) with
        win := s.win.write slot b
        cursor := BitVec.ofNat 24 ((slot + 1) % w) }
    | none => .next (raise .invariantBreach s)
  else .fault .windowSlotAbsent

/-- `PUSH B` (R72). The count is refused at `2^64 - 1` (step 1); the case is chosen by the post-increment count `n` against
`w` (step 3, R80, 90_conflicts.md C2). -/
def execPush (b : Byte) (s : State) : Result :=
  unlessFatal s <|
    let n := s.count.toNat + 1
    let w := s.wsize.toNat
    if s.count.toNat = 2 ^ 64 - 1 then .next (raise .countOverflow s)
    else if w = 0 then pushZeroWindow n s
    else if n < w then pushFilling b n s
    else if n = w then pushFirstFull b n s
    else pushRolling b n s

end Sys2Proof.Machine
end

