-- ==== Sys2Proof/Machine/Fold.lean ====
section
/-! DEFINITION. The fold unit, `CKINIT` and `CKBYTE` (41_context_and_fold.md R68, R69). -/

namespace Sys2Proof.Machine

/-- `CKINIT` (R68). -/
def execCkinit (s : State) : Result := unlessFatal s (.next { s with ckacc := Config.init })

/-- `CKBYTE B` (R69). -/
def execCkbyte (b : Byte) (s : State) : Result :=
  unlessFatal s (.next { s with ckacc := Crc.upd s.ckacc b })

end Sys2Proof.Machine
end

