-- ==== Sys2Proof/Machine/Table.lean ====
section
/-! DEFINITION. The table readback command `RDTAB` (40_crc_tables.md R65). -/

namespace Sys2Proof.Machine

/-- `RDTAB S, I` (R65). -/
def execRdtab (sel : TableSel) (index : Byte) (s : State) : Result :=
  unlessFatal s (.next { s with tdata := s.tableEntry sel index })

end Sys2Proof.Machine
end

