-- ==== Sys2Proof/Machine/Dispatch.lean ====
section
/-! DEFINITION. One arm per command. -/

namespace Sys2Proof.Machine

/-- The effect of a command (the rule each row of 30_encoding.md R48 names). -/
def exec (i : Instr) (s : State) : Host.Outcome State Fault Refusal :=
  match i with
  | .nop => Sys2Proof.Machine.execNop s
  | .cfg w => Sys2Proof.Machine.execCfg w s
  | .push b => Sys2Proof.Machine.execPush b s
  | .srst => Sys2Proof.Machine.execSrst s
  | .ckinit => Sys2Proof.Machine.execCkinit s
  | .ckbyte b => Sys2Proof.Machine.execCkbyte b s
  | .rdtab sel index => Sys2Proof.Machine.execRdtab sel index s
  | .clrerr => Sys2Proof.Machine.execClrerr s

end Sys2Proof.Machine
end

