-- ==== Sys2Proof/Machine/CommandWord.lean ====
section
/-! DEFINITION. Carrying out one command word (30_encoding.md R49). -/

namespace Sys2Proof.Machine

/-- Execute a command word: the command it encodes, or `IllegalCommand` (R49; the check of `ERR_FATAL`, first in R49's order,
is in every branch, log 9). -/
def execWord (cmd : Word) (s : State) : Result :=
  match decode cmd with
  | .ok i => exec i s
  | .error _ => execIllegal s

end Sys2Proof.Machine
end

