-- ==== Sys2Proof/Machine/Step.lean ====
section
/-! DEFINITION. One step: one whole command word or one hardware reset (00_scope.md R10). -/

namespace Sys2Proof.Machine

/-- Take the oldest event from the port and carry it out; with none, the block is idle (log 2). -/
def step (s : State) : Host.Outcome State Fault Refusal :=
  match fetch s with
  | .idle => .next s
  | .reset t => .next (hardwareReset t)
  | .command cmd t => execWord cmd t
  | .stop r => .refused r

/-- `s` with the word put where `step` takes its next command: the oldest event at the port, the block ready (log 2, log 15). -/
def State.withFetchWord (s : State) (nbits w : Nat) : State :=
  s.atPort (BitVec.ofNat 32 (tableBits nbits w))

end Sys2Proof.Machine
end

