-- ==== Sys2Proof/Machine/HostProcedures.lean ====
section
/-! DEFINITION. What the host does with the block: a program of writes, resets and reads (10_state.md R13), and the stream
adapters (43_control_and_host.md R84, R85). These run over `step` and `readPort`; the block knows nothing of them. -/

namespace Sys2Proof.Machine

/-- One host operation (R51, R83, R102). -/
inductive HostAction where
  | write (cmd : Word)
  | read (r : RegNumber)
  | reset
deriving DecidableEq, Repr

/-- What a host procedure ends with: the block's state and what the host got, or the reason the block stopped. -/
abbrev HostResult (α : Type) := Host.Outcome (State × α) Fault Refusal

/-- Send one event and let the block take one step, which carries out its oldest event. DESIGN CHOICE (log 21): if older words
still wait at the port, that step is the oldest one's, and a read that follows sees the state before the word just sent. With
`port = []` before, the step is the sent word's, and the read sees its effects (R41). -/
def sendAndStep (s : State) (e : PortEvent) : Result := step (s.deliver e)

/-- A program of host operations, in order (R13); the values of its reads, in order. A read takes no step (R10). DESIGN CHOICE
(log 21): one step per write or reset, so reads see every earlier write of the program only from a state with `port = []`. -/
def hostRun : List HostAction → State → HostResult (List Word)
  | [], s => .next (s, [])
  | .read r :: rest, s =>
    match hostRun rest s with
    | .next (t, values) => .next (t, readPort s r :: values)
    | .fault f => .fault f
    | .refused f => .refused f
  | .write cmd :: rest, s =>
    match sendAndStep s (.command cmd) with
    | .next t => hostRun rest t
    | .fault f => .fault f
    | .refused f => .refused f
  | .reset :: rest, s =>
    match sendAndStep s .reset with
    | .next t => hostRun rest t
    | .fault f => .fault f
    | .refused f => .refused f

/-- The boot order (R104): reset, wait for `BUSY = 0`, learn `MAX_WINDOW`, configure, wait, and check `ERR_WSIZE`. Each wait is
one read of `STATUS`, since the model has `BUSY = 0` at every step boundary (R27). -/
def bootProgram (w : WindowSize) : List HostAction :=
  [.reset, .read (portNumber .status), .read (portNumber .maxwin), .write (encode (.cfg w)), .read (portNumber .status)]

/-- One emitted pair `(position, checksum)` (R84). -/
abbrev Pair := Count × Crc

/-- What the host reads after a `PUSH` (R84): the pair, if `STATUS[0] = 1`. -/
def readPair (s : State) : Option Pair :=
  if (readPort s (portNumber .status)).getLsbD 0 then
    some (readPort s (portNumber .rposHi) ++ readPort s (portNumber .rposLo), readPort s (portNumber .result))
  else none

/-- `ChecksumStream(src)` (R84), from a state with `port = []` (log 21). -/
def checksumStream : List Byte → State → HostResult (List Pair)
  | [], s => .next (s, [])
  | b :: rest, s =>
    match sendAndStep s (.command (encode (.push b))) with
    | .next t =>
      match checksumStream rest t with
      | .next (u, pairs) => .next (u, (readPair t).toList ++ pairs)
      | .fault f => .fault f
      | .refused f => .refused f
    | .fault f => .fault f
    | .refused f => .refused f

/-- An item of the source's result stream: a byte or an error (R85). -/
inductive Item (ε : Type) where
  | byte (b : Byte)
  | error (e : ε)
deriving DecidableEq, Repr

/-- What the result-preserving adapter emits: a pair or a forwarded error (R85). -/
inductive Emitted (ε : Type) where
  | pair (p : Pair)
  | error (e : ε)
deriving DecidableEq, Repr

/-- The "Checksum-result stream" (R85): an error item is forwarded in sequence and no command is issued for it. -/
def checksumResultStream {ε : Type} : List (Item ε) → State → HostResult (List (Emitted ε))
  | [], s => .next (s, [])
  | .error e :: rest, s =>
    match checksumResultStream rest s with
    | .next (u, out) => .next (u, .error e :: out)
    | .fault f => .fault f
    | .refused f => .refused f
  | .byte b :: rest, s =>
    match sendAndStep s (.command (encode (.push b))) with
    | .next t =>
      match checksumResultStream rest t with
      | .next (u, out) => .next (u, (readPair t).toList.map .pair ++ out)
      | .fault f => .fault f
      | .refused f => .refused f
    | .fault f => .fault f
    | .refused f => .refused f

/-- Carry out command words in the order they arrive (R41), legal or not, up to the first that answers no next state. -/
def execWords : List Word → State → Result
  | [], s => .next s
  | cmd :: rest, s =>
    match execWord cmd s with
    | .next t => execWords rest t
    | .fault f => .fault f
    | .refused f => .refused f

end Sys2Proof.Machine
end

