-- ==== Sys2Proof/Machine/Assembler.lean ====
section
/-! DEFINITION. The assembler of 30_encoding.md R51 and the pseudo-instructions of R52: lines to host operations, and program
text to lines. -/

namespace Sys2Proof.Machine

/-- The commands a well-formed line stands for (R51, R52); `none` for `.word`, `READ` and `RESET`, which name no command. -/
def lineCommands : AsmLine → Option (List Instr)
  | .nop => some [.nop]
  | .cfg w => some [.cfg (BitVec.ofNat 24 w)]
  | .push b => some [.push (BitVec.ofNat 8 b)]
  | .srst => some [.srst]
  | .ckinit => some [.ckinit]
  | .ckbyte b => some [.ckbyte (BitVec.ofNat 8 b)]
  | .rdtab sel i => some [.rdtab sel (BitVec.ofNat 8 i)]
  | .clrerr => some [.clrerr]
  | .cfgnew w => some [.cfg (BitVec.ofNat 24 w)]
  | .pushs bytes => some (bytes.map .push)
  | .cksum bytes => some (.ckinit :: bytes.map .ckbyte)
  | .word _ => none
  | .read _ => none
  | .reset => none

/-- The host operations of one line; an operand out of range is refused, not truncated (R51). -/
def assembleLine (line : AsmLine) : Option (List HostAction) :=
  if line.wf then
    match lineCommands line with
    | some commands => some (commands.map fun i => .write (encode i))
    | none =>
      match line with
      | .word x => some [.write (BitVec.ofNat 32 x)]
      | .read r => some [.read (portNumber r)]
      | .reset => some [.reset]
      | _ => none
  else none

/-- The host operations of a program. -/
def assemble : List AsmLine → Option (List HostAction)
  | [] => some []
  | line :: rest =>
    match assembleLine line, assemble rest with
    | some a, some b => some (a ++ b)
    | _, _ => none

/-! ### Program text (R51), as characters. Mnemonics and names are matched letter for letter; strings have no escapes
(log 20). -/

/-- The ASCII code of a character (R8, R51; log 17). -/
def asciiByte (c : Char) : Option Byte := if c.toNat < 128 then some (BitVec.ofNat 8 c.toNat) else none

def isBlank (c : Char) : Bool := c == ' ' || c == '\t' || c == '\r'

def skipBlanks (cs : List Char) : List Char := cs.dropWhile isBlank

/-- A letter, digit, `_` or `.`: what mnemonics, names and numbers are made of. -/
def isWordChar (c : Char) : Bool := c.isAlphanum || c == '_' || c == '.'

/-- The value of a digit. -/
def digitValue (c : Char) : Nat :=
  if c.isDigit then c.toNat - '0'.toNat
  else if 'a' ≤ c ∧ c ≤ 'f' then c.toNat - 'a'.toNat + 10
  else if 'A' ≤ c ∧ c ≤ 'F' then c.toNat - 'A'.toNat + 10
  else 16

/-- A nonempty run of digits in a base. -/
def digitsValue (base : Nat) (cs : List Char) : Option Nat :=
  if cs.isEmpty || cs.any (fun c => base ≤ digitValue c) then none
  else some (cs.foldl (fun n c => n * base + digitValue c) 0)

/-- "Numbers are decimal or `0x` hexadecimal" (R51). -/
def numberValue : List Char → Option Nat
  | '0' :: 'x' :: cs => digitsValue 16 cs
  | cs => digitsValue 10 cs

/-- A number or a character in single quotes, and what follows it. -/
def parseNumber (cs : List Char) : Option (Nat × List Char) :=
  match skipBlanks cs with
  | '\'' :: c :: '\'' :: rest => (asciiByte c).map fun b => (b.toNat, rest)
  | cs => (numberValue (cs.takeWhile isWordChar)).map fun n => (n, cs.dropWhile isWordChar)

/-- A string of characters in double quotes as their codes, and what follows it. -/
def parseString (cs : List Char) : Option (List Byte × List Char) :=
  match skipBlanks cs with
  | '"' :: cs =>
    match cs.dropWhile (· != '"') with
    | _ :: rest => ((cs.takeWhile (· != '"')).mapM asciiByte).map fun bytes => (bytes, rest)
    | [] => none
  | _ => none

/-- A name, and what follows it. -/
def parseName (cs : List Char) : List Char × List Char :=
  let cs := skipBlanks cs
  (cs.takeWhile isWordChar, cs.dropWhile isWordChar)

/-- The read-port names of R30. -/
def portNames : List (List Char × PortReg) :=
  [("STATUS".toList, .status), ("RESULT".toList, .result), ("RPOS_LO".toList, .rposLo), ("RPOS_HI".toList, .rposHi),
   ("CKRESULT".toList, .ckresult), ("WSIZE".toList, .wsize), ("COUNT_LO".toList, .countLo), ("COUNT_HI".toList, .countHi),
   ("CURSOR".toList, .cursor), ("TDATA".toList, .tdata), ("MAXWIN".toList, .maxwin)]

/-- The operand of `RDTAB`: `BASE, i` or `ROLL, i`. -/
def parseTable (cs : List Char) : Option (AsmLine × List Char) :=
  let (name, cs) := parseName cs
  match skipBlanks cs with
  | ',' :: cs =>
    if name = "BASE".toList then (parseNumber cs).map fun (i, rest) => (.rdtab .base i, rest)
    else if name = "ROLL".toList then (parseNumber cs).map fun (i, rest) => (.rdtab .roll i, rest)
    else none
  | _ => none

/-- The operands after a mnemonic. -/
def parseOperands (mnemonic cs : List Char) : Option (AsmLine × List Char) :=
  if mnemonic = "NOP".toList then some (.nop, cs)
  else if mnemonic = "CFG".toList then (parseNumber cs).map fun (n, rest) => (.cfg n, rest)
  else if mnemonic = "PUSH".toList then (parseNumber cs).map fun (n, rest) => (.push n, rest)
  else if mnemonic = "SRST".toList then some (.srst, cs)
  else if mnemonic = "CKINIT".toList then some (.ckinit, cs)
  else if mnemonic = "CKBYTE".toList then (parseNumber cs).map fun (n, rest) => (.ckbyte n, rest)
  else if mnemonic = "RDTAB".toList then parseTable cs
  else if mnemonic = "CLRERR".toList then some (.clrerr, cs)
  else if mnemonic = ".word".toList then (parseNumber cs).map fun (n, rest) => (.word n, rest)
  else if mnemonic = "CFGNEW".toList then (parseNumber cs).map fun (n, rest) => (.cfgnew n, rest)
  else if mnemonic = "PUSHS".toList then (parseString cs).map fun (bytes, rest) => (.pushs bytes, rest)
  else if mnemonic = "CKSUM".toList then (parseString cs).map fun (bytes, rest) => (.cksum bytes, rest)
  else if mnemonic = "READ".toList then
    let (name, rest) := parseName cs
    (portNames.lookup name).map fun r => (.read r, rest)
  else if mnemonic = "RESET".toList then some (.reset, cs)
  else none

/-- The rest of a line holds nothing but a comment (R51: "`;` starts a comment"). -/
def lineEnds (cs : List Char) : Bool :=
  match skipBlanks cs with
  | [] => true
  | c :: _ => c == ';'

/-- One line of text: at most one command (R51); a blank or comment line gives none. -/
def parseLine (cs : List Char) : Option (List AsmLine) :=
  if lineEnds cs then some []
  else
    let (mnemonic, rest) := parseName cs
    match parseOperands mnemonic rest with
    | some (line, rest) => if lineEnds rest then some [line] else none
    | none => none

/-- The lines of a text. -/
def splitLines : List Char → List (List Char)
  | [] => [[]]
  | c :: cs =>
    if c = '\n' then [] :: splitLines cs
    else
      match splitLines cs with
      | line :: rest => (c :: line) :: rest
      | [] => [[c]]

/-- The lines of a program text, `none` when one of them is not of R51 or R52. -/
def parseProgram (text : String) : Option (List AsmLine) :=
  ((splitLines text.toList).mapM parseLine).map List.flatten

end Sys2Proof.Machine
end

