-- ==== Sys2Proof/Safety.lean ====
section
/-! DEFINITION. What a run is, what a safe state is, and the invariants claims use (10_state.md R31, 42_engine.md R75, R76). -/

namespace Sys2Proof.Machine

/-- The spec's fault state: "a fault state ... never a successful end of a run" (60_exceptions.md R90; log 5). -/
abbrev State.faulted (s : State) : Prop := s.errFatal = true

/-- The states of runs: from reset, with any parameter value of R5, the host may send any event at any step boundary, and the
block steps (R10, R42, R102). -/
inductive Reachable : State → Prop where
  | reset (c : Config) (h : c.valid) : Reachable (State.resetWith c)
  | deliver (s : State) (e : PortEvent) (h : Reachable s) : Reachable (s.deliver e)
  | step (s t : State) (h : Reachable s) (hs : Sys2Proof.Machine.step s = .next t) : Reachable t

/-- `min(COUNT, w)`: how many slots of `WIN` are written (R31 item 1). -/
def State.filled (s : State) : Nat := min s.count.toNat s.wsize.toNat

/-- The invariants of R31 (items 1 to 5), with those of R5, R14, R16, R17 and R27. -/
abbrev State.Inv (s : State) : Prop :=
  s.config.valid ∧
  s.wsize.toNat ≤ s.config.maxWindow.toNat ∧
  s.win.slots = List.range s.filled ∧
  (s.lastValid = true ↔ 1 ≤ s.wsize.toNat ∧ s.wsize.toNat ≤ s.count.toNat) ∧
  (1 ≤ s.wsize.toNat → s.cursor.toNat < s.wsize.toNat) ∧
  (s.count.toNat < s.wsize.toNat → s.cursor = 0) ∧
  (s.wsize = 0 → s.cursor = 0) ∧
  s.roll = Crc.rollTable s.wsize.toNat ∧
  s.errFatal = false ∧
  s.busy = false

/-- What the result registers mean (R20, R21 to R23, R76): a present open CRC is that of the logical window; a valid result is
its closed form, at position `COUNT - w`. -/
abbrev State.CrcInv (s : State) : Prop :=
  (s.lastValid = true → s.logicalWindow.map (Crc.fold Config.init) = some s.lastOpen) ∧
  (s.rvalid = true → s.lastValid = true ∧ s.result = Crc.close s.lastOpen ∧ s.rpos.toNat = s.count.toNat - s.wsize.toNat)

/-- The values of the reset table of 70_reset_and_hazards.md R102, element by element (`BASE` is a ROM). -/
abbrev State.ResetValues (s : State) : Prop :=
  s.wsize = 0 ∧
  (∀ x : Byte, s.rollRead x = 0x00000000) ∧
  (∀ slot : Nat, s.win.read slot = none) ∧
  s.cursor = 0 ∧
  s.count = 0 ∧
  s.lastOpen = 0x00000000 ∧ s.lastValid = false ∧
  s.rvalid = false ∧
  s.result = 0x00000000 ∧
  s.rpos = 0 ∧
  s.ckacc = 0xFFFFFFFF ∧
  s.tdata = 0x00000000 ∧
  s.errIllegal = false ∧ s.errWsize = false ∧ s.errCount = false ∧ s.errFatal = false ∧
  s.busy = false ∧
  s.status = 0x00000000 ∧
  readPort s 0x04 = 0x00000000

/-- The byte a word pushes, if it encodes a `PUSH` (R48). -/
def pushedByte (cmd : Word) : Option Byte :=
  match decode cmd with
  | .ok (.push b) => some b
  | _ => none

/-- The byte a word folds, if it encodes a `CKBYTE` (R48). -/
def foldedByte (cmd : Word) : Option Byte :=
  match decode cmd with
  | .ok (.ckbyte b) => some b
  | _ => none

/-- The word starts a new stream on a block with parameter `c`: `SRST`, or a `CFG` within `MAX_WINDOW` (R71, R66). -/
def startsStream (c : Config) (cmd : Word) : Bool :=
  match decode cmd with
  | .ok .srst => true
  | .ok (.cfg w) => decide (w.toNat ≤ c.maxWindow.toNat)
  | _ => false

end Sys2Proof.Machine
end

