-- ==== Sys2Proof/Certificates/Slice0/Obligations.lean ====
section
/-! DEFINITION. The statements for the provers. Each docstring names the rule of the spec, or the log entry, it states. -/

open Sys2Proof Sys2Proof.Machine

/-! ### Encoding -/

/-- Every command, with every operand: no bit of an encoding is dropped (R46, R47, R51). -/
def Obligations.EncodedCommandDecodesToItself : Prop :=
  ∀ i : Instr, decode (encode i) = .ok i

/-- A word that decodes is the one encoding of its command (R49, R50). -/
def Obligations.DecodedWordIsTheEncodingOfItsCommand : Prop :=
  ∀ (cmd : Word) (i : Instr), decode cmd = .ok i → encode i = cmd

/-- R47, R48: each row's mask and match, with the operand fields, and that a word is legal exactly when a row matches. -/
def Obligations.OpcodeMapIsThatOfR48 : Prop :=
  ∀ cmd : Word,
    (decode cmd = .ok .nop ↔ cmd &&& 0xFFFFFFFF = 0x00000000) ∧
    (∀ w : WindowSize, decode cmd = .ok (.cfg w) ↔ cmd &&& 0xFF000000 = 0x10000000 ∧ w = cmd.extractLsb' 0 24) ∧
    (∀ b : Byte, decode cmd = .ok (.push b) ↔ cmd &&& 0xFFFFFF00 = 0x20000000 ∧ b = cmd.extractLsb' 0 8) ∧
    (decode cmd = .ok .srst ↔ cmd &&& 0xFFFFFFFF = 0x30000000) ∧
    (decode cmd = .ok .ckinit ↔ cmd &&& 0xFFFFFFFF = 0x40000000) ∧
    (∀ b : Byte, decode cmd = .ok (.ckbyte b) ↔ cmd &&& 0xFFFFFF00 = 0x50000000 ∧ b = cmd.extractLsb' 0 8) ∧
    (∀ (sel : TableSel) (i : Byte), decode cmd = .ok (.rdtab sel i) ↔
      cmd &&& 0xFFFFFE00 = 0x60000000 ∧ (cmd.getLsbD 8 = true ↔ sel = .roll) ∧ i = cmd.extractLsb' 0 8) ∧
    (decode cmd = .ok .clrerr ↔ cmd &&& 0xFFFFFFFF = 0x70000000) ∧
    ((∃ i, decode cmd = .ok i) ↔
      (cmd &&& 0xFFFFFFFF = 0x00000000 ∨ cmd &&& 0xFF000000 = 0x10000000 ∨ cmd &&& 0xFFFFFF00 = 0x20000000 ∨
        cmd &&& 0xFFFFFFFF = 0x30000000 ∨ cmd &&& 0xFFFFFFFF = 0x40000000 ∨ cmd &&& 0xFFFFFF00 = 0x50000000 ∨
        cmd &&& 0xFFFFFE00 = 0x60000000 ∨ cmd &&& 0xFFFFFFFF = 0x70000000))

/-- The last sentence of R49 on the rows of R48. -/
def Obligations.AtMostOneOpcodeRowMatches : Prop :=
  (opcodeTable.map fun r => opField r.pattern).Nodup ∧
  (∀ r ∈ opcodeTable, r.mask &&& 0xF0000000 = 0xF0000000) ∧
  (∀ (cmd : Word) (r r' : OpcodeRow), r ∈ opcodeTable → r' ∈ opcodeTable → r.matches cmd = true → r'.matches cmd = true →
    r = r')

/-- The first sentence of R49, with the reserved bits of each format of R46. -/
def Obligations.IllegalWordsHaveReservedOpcodeOrReservedBits : Prop :=
  ∀ cmd : Word,
    (∃ e, decode cmd = .error e) ↔
      (8 ≤ (opField cmd).toNat ∨
        (opField cmd = 0 ∧ cmd.extractLsb' 0 28 ≠ 0) ∨
        (opField cmd = 1 ∧ cmd.extractLsb' 24 4 ≠ 0) ∨
        (opField cmd = 2 ∧ cmd.extractLsb' 8 20 ≠ 0) ∨
        (opField cmd = 3 ∧ cmd.extractLsb' 0 28 ≠ 0) ∨
        (opField cmd = 4 ∧ cmd.extractLsb' 0 28 ≠ 0) ∨
        (opField cmd = 5 ∧ cmd.extractLsb' 8 20 ≠ 0) ∨
        (opField cmd = 6 ∧ cmd.extractLsb' 9 19 ≠ 0) ∨
        (opField cmd = 7 ∧ cmd.extractLsb' 0 28 ≠ 0))

/-- Words written out in the spec's examples (R65, R66, R69, R72, R74, R81, R82) and in 95_test_vectors.md ILL-1. -/
def Obligations.SpecExampleWordsDecode : Prop :=
  decode 0x00000000 = .ok .nop ∧
  decode 0x10000004 = .ok (.cfg 4) ∧
  decode 0x10FFFFFF = .ok (.cfg 0xFFFFFF) ∧
  decode 0x2000006F = .ok (.push 0x6F) ∧
  decode 0x30000000 = .ok .srst ∧
  decode 0x40000000 = .ok .ckinit ∧
  decode 0x50000061 = .ok (.ckbyte 0x61) ∧
  decode 0x60000080 = .ok (.rdtab .base 0x80) ∧
  decode 0x6000016C = .ok (.rdtab .roll 0x6C) ∧
  decode 0x70000000 = .ok .clrerr ∧
  decode 0x60000200 = .error .reservedBits ∧
  decode 0x80000000 = .error .reservedOpcode

/-- The words of R51, the refusal of an operand out of range, the pseudo-instructions of R52, and the numbers of R30 for `READ`. -/
def Obligations.AssemblerWritesTheWordsOfR51 : Prop :=
  assembleLine .nop = some [.write 0x00000000] ∧
  (∀ w : Nat, assembleLine (.cfg w) = if w ≤ 0xFFFFFF then some [.write (0x10000000 ||| BitVec.ofNat 32 w)] else none) ∧
  (∀ b : Nat, assembleLine (.push b) = if b ≤ 0xFF then some [.write (0x20000000 ||| BitVec.ofNat 32 b)] else none) ∧
  assembleLine .srst = some [.write 0x30000000] ∧
  assembleLine .ckinit = some [.write 0x40000000] ∧
  (∀ b : Nat, assembleLine (.ckbyte b) = if b ≤ 0xFF then some [.write (0x50000000 ||| BitVec.ofNat 32 b)] else none) ∧
  (∀ i : Nat, assembleLine (.rdtab .base i) =
    if i ≤ 0xFF then some [.write (0x60000000 ||| BitVec.ofNat 32 i)] else none) ∧
  (∀ i : Nat, assembleLine (.rdtab .roll i) =
    if i ≤ 0xFF then some [.write (0x60000100 ||| BitVec.ofNat 32 i)] else none) ∧
  assembleLine .clrerr = some [.write 0x70000000] ∧
  (∀ x : Nat, assembleLine (.word x) = if x ≤ 0xFFFFFFFF then some [.write (BitVec.ofNat 32 x)] else none) ∧
  (∀ w : Nat, assembleLine (.cfgnew w) = assembleLine (.cfg w)) ∧
  (∀ bytes : List Byte, assembleLine (.pushs bytes) = some (bytes.map fun b => .write (0x20000000 ||| b.setWidth 32))) ∧
  (∀ bytes : List Byte, assembleLine (.cksum bytes) =
    some (.write 0x40000000 :: bytes.map fun b => .write (0x50000000 ||| b.setWidth 32))) ∧
  assembleLine (.read .status) = some [.read 0x00] ∧
  assembleLine (.read .result) = some [.read 0x01] ∧
  assembleLine (.read .rposLo) = some [.read 0x02] ∧
  assembleLine (.read .rposHi) = some [.read 0x03] ∧
  assembleLine (.read .ckresult) = some [.read 0x04] ∧
  assembleLine (.read .wsize) = some [.read 0x05] ∧
  assembleLine (.read .countLo) = some [.read 0x06] ∧
  assembleLine (.read .countHi) = some [.read 0x07] ∧
  assembleLine (.read .cursor) = some [.read 0x08] ∧
  assembleLine (.read .tdata) = some [.read 0x09] ∧
  assembleLine (.read .maxwin) = some [.read 0x0A] ∧
  assembleLine .reset = some [.reset]

/-! ### A step -/

/-- A command word that decodes is executed by `exec`, with the event taken from the port (R10, R49). -/
def Obligations.StepRunsTheDecodedCommand : Prop :=
  ∀ (s : State) (cmd : Word) (rest : List PortEvent) (i : Instr),
    s.busy = false → s.port = .command cmd :: rest → decode cmd = .ok i →
    step s = exec i { s with port := rest }

/-- An illegal word sets `ERR_ILLEGAL` and has no other effect (R49). -/
def Obligations.IllegalWordSetsOnlyErrIllegal : Prop :=
  ∀ (s : State) (cmd : Word) (rest : List PortEvent) (e : DecodeError),
    s.busy = false → s.errFatal = false → s.port = .command cmd :: rest → decode cmd = .error e →
    step s = .next { s with port := rest, errIllegal := true }

/-- R90: in the fault state every command word, legal or not, is ignored; the block still answers reads as R30 says; hardware
reset leaves the fault state. -/
def Obligations.FatalBlockIgnoresEveryWordUntilReset : Prop :=
  (∀ (s : State) (cmd : Word) (rest : List PortEvent),
    s.busy = false → s.errFatal = true → s.port = .command cmd :: rest →
    step s = .next { s with port := rest }) ∧
  (∀ (s : State) (i : Instr), s.errFatal = true → exec i s = .next s) ∧
  (∀ s : State, s.busy = false → s.errFatal = true →
    (readPort s 0x00).getLsbD 7 = true ∧ readPort s 0x01 = s.result) ∧
  (∀ (s : State) (rest : List PortEvent), s.errFatal = true → s.port = .reset :: rest →
    ∃ t, step s = .next t ∧ t.errFatal = false)

/-- R102: hardware reset gives the values of its table from any state, `BUSY = 1` and the fault state included, and whatever a
command has done before; `BASE` and the parameter stay. The model's choices (log 10): reset is an event taken between commands, and what the host has
sent after it stays at the port. -/
def Obligations.HardwareResetGivesTheResetValues : Prop :=
  ∀ (s : State) (rest : List PortEvent), s.port = .reset :: rest →
    ∃ t, step s = .next t ∧ t.ResetValues ∧ t.phase = .zeroWindow ∧
      (∀ x : Byte, t.tableEntry .base x = s.tableEntry .base x) ∧
      t.config = s.config ∧ t.port = rest ∧
      (∀ (i : Instr) (u : State), exec i { s with port := rest } = .next u → hardwareReset u = t)

/-- The reset state of a block with any parameter has the values of R102's table; `State.reset` is that of the reference
parameter 4096 (log 3: the model's choice) with nothing sent by the host (log 1: the model's choice). -/
def Obligations.ResetStateHasTheResetValues : Prop :=
  (∀ c : Config, (State.resetWith c).ResetValues ∧ (State.resetWith c).config = c ∧ (State.resetWith c).port = []) ∧
  State.reset = State.resetWith { maxWindow := 4096 }

/-- With nothing sent, the block is idle and holds all state (R101; log 2: the model's choice that this is a step). -/
def Obligations.IdleBlockHoldsItsState : Prop :=
  ∀ s : State, s.busy = false → s.port = [] → step s = .next s

/-- A command written while `BUSY = 1` is outside the admitted runs (R105), so it is refused. The model's choices (log 7): that
a boundary with `BUSY = 1` and nothing at the port, which R27 says the model never has, is refused too, and both names. -/
def Obligations.BusyBlockTakesNoCommand : Prop :=
  (∀ (s : State) (cmd : Word) (rest : List PortEvent),
    s.busy = true → s.port = .command cmd :: rest → step s = .refused .commandWhileBusy) ∧
  (∀ s : State, s.busy = true → s.port = [] → step s = .refused .busyAtStepBoundary)

/-! ### Commands -/

/-- R81: the command, its encoding and its exception. -/
def Obligations.NopLeavesTheStateUnchanged : Prop :=
  ∀ s : State, exec .nop s = .next s ∧
    (s.errFatal = false → (∀ cmd : Word, opField cmd = 0 →
        (cmd.extractLsb' 0 28 = 0 → execWord cmd s = exec .nop s) ∧
        (cmd.extractLsb' 0 28 ≠ 0 → execWord cmd s = .next { s with errIllegal := true })))

/-- R82: the whole next state, so its frame too; its encoding and its exception. -/
def Obligations.ClrerrClearsTheRecoverableFlags : Prop :=
  ∀ s : State, s.errFatal = false →
    exec .clrerr s = .next { s with errIllegal := false, errWsize := false } ∧
    (∀ cmd : Word, opField cmd = 7 →
      (cmd.extractLsb' 0 28 = 0 → execWord cmd s = exec .clrerr s) ∧
      (cmd.extractLsb' 0 28 ≠ 0 → execWord cmd s = .next { s with errIllegal := true }))

/-- R68: the whole next state, so its frame too; `CKRESULT` then reads 0; its encoding and its exception. -/
def Obligations.CkinitSeedsTheFold : Prop :=
  ∀ s : State, s.errFatal = false →
    exec .ckinit s = .next { s with ckacc := 0xFFFFFFFF } ∧
    (s.busy = false → readPort { s with ckacc := 0xFFFFFFFF } 0x04 = 0x00000000) ∧
    (∀ cmd : Word, opField cmd = 4 →
      (cmd.extractLsb' 0 28 = 0 → execWord cmd s = exec .ckinit s) ∧
      (cmd.extractLsb' 0 28 ≠ 0 → execWord cmd s = .next { s with errIllegal := true }))

/-- R69 with the update rule of R54 written out: the whole next state, so its frame too; its encoding and its exception. -/
def Obligations.CkbyteFoldsOneByte : Prop :=
  ∀ s : State, s.errFatal = false →
    (∀ b : Byte, exec (.ckbyte b) s =
      .next { s with ckacc := Crc.baseEntry ((s.ckacc ^^^ b.setWidth 32).setWidth 8) ^^^ (s.ckacc >>> 8) }) ∧
    (∀ cmd : Word, opField cmd = 5 →
      (cmd.extractLsb' 8 20 = 0 → execWord cmd s = exec (.ckbyte (cmd.extractLsb' 0 8)) s) ∧
      (cmd.extractLsb' 8 20 ≠ 0 → execWord cmd s = .next { s with errIllegal := true }))

/-- R65: the whole next state, so its frame too; in the zero-window context `ROLL` reads 0; its encoding and its exception. -/
def Obligations.RdtabReadsTheSelectedTable : Prop :=
  ∀ s : State, s.errFatal = false →
    (∀ i : Byte,
      exec (.rdtab .base i) s = .next { s with tdata := Crc.baseEntry i } ∧
      exec (.rdtab .roll i) s = .next { s with tdata := s.roll[i.toFin] } ∧
      (s.Inv → s.wsize = 0 → exec (.rdtab .roll i) s = .next { s with tdata := 0x00000000 })) ∧
    (∀ cmd : Word, opField cmd = 6 →
      (cmd.extractLsb' 9 19 = 0 → execWord cmd s = exec (.rdtab (if cmd.getLsbD 8 then .roll else .base) (cmd.extractLsb' 0 8)) s) ∧
      (cmd.extractLsb' 9 19 ≠ 0 → execWord cmd s = .next { s with errIllegal := true }))

/-- R74 with R71: the whole next state, so its frame too; its encoding and its exception. -/
def Obligations.SrstStartsAFreshStream : Prop :=
  ∀ s : State, s.errFatal = false →
    (∃ t, exec .srst s = .next t ∧
      t = { s with
        count := 0, cursor := 0, lastOpen := 0x00000000, lastValid := false, win := t.win, rvalid := false,
        result := 0x00000000, rpos := 0, errCount := false } ∧
      (∀ slot : Nat, t.win.read slot = none) ∧
      t.phase = if s.wsize = 0 then .zeroWindow else .filling) ∧
    (∀ cmd : Word, opField cmd = 3 →
      (cmd.extractLsb' 0 28 = 0 → execWord cmd s = exec .srst s) ∧
      (cmd.extractLsb' 0 28 ≠ 0 → execWord cmd s = .next { s with errIllegal := true }))

/-- R66: accepted up to `MAX_WINDOW`, with the table of R62 and the stream reset of R71 (the whole next state, so its frame
too); beyond, only `ERR_WSIZE`; its encoding and its exception. -/
def Obligations.CfgConfiguresOrRefuses : Prop :=
  ∀ s : State, s.errFatal = false →
    (∀ w : WindowSize, w.toNat ≤ s.config.maxWindow.toNat →
      ∃ t, exec (.cfg w) s = .next t ∧
        t = { s with
          wsize := w, roll := t.roll, count := 0, cursor := 0, lastOpen := 0x00000000, lastValid := false, win := t.win,
          rvalid := false, result := 0x00000000, rpos := 0, errCount := false } ∧
        (∀ x : Byte, t.roll[x.toFin] =
          if w = 0 then 0x00000000
          else Crc.fold 0xFFFFFFFF ([x] ++ Crc.zeros w.toNat) ^^^ Crc.fold 0xFFFFFFFF (Crc.zeros w.toNat)) ∧
        (∀ slot : Nat, t.win.read slot = none) ∧
        t.phase = if w = 0 then .zeroWindow else .filling) ∧
    (∀ w : WindowSize, s.config.maxWindow.toNat < w.toNat → exec (.cfg w) s = .next { s with errWsize := true }) ∧
    (∀ cmd : Word, opField cmd = 1 →
      (cmd.extractLsb' 24 4 = 0 → execWord cmd s = exec (.cfg (cmd.extractLsb' 0 24)) s) ∧
      (cmd.extractLsb' 24 4 ≠ 0 → execWord cmd s = .next { s with errIllegal := true }))

/-- R72 step 1: at `COUNT = 2^64 - 1` a push is refused and only `ERR_COUNT` changes. -/
def Obligations.PushIsRefusedAtTheCountLimit : Prop :=
  ∀ (s : State) (b : Byte), s.errFatal = false → s.count.toNat = 2 ^ 64 - 1 →
    exec (.push b) s = .next { s with errCount := true }

/-- R72, `w = 0`: the count advances, no slot is written, no checksum. -/
def Obligations.PushInTheZeroWindowOnlyCounts : Prop :=
  ∀ (s : State) (b : Byte), s.errFatal = false → s.count.toNat < 2 ^ 64 - 1 → s.wsize = 0 →
    exec (.push b) s = .next { s with count := s.count + 1, rvalid := false }

/-- R72, Filling (`n < w`): the byte goes to `WIN[n-1]`, no checksum; every other slot and register stays. -/
def Obligations.PushWhileFillingStoresTheByte : Prop :=
  ∀ (s : State) (b : Byte), s.errFatal = false → s.count.toNat + 1 < s.wsize.toNat →
    s.wsize.toNat ≤ s.config.maxWindow.toNat →
    ∃ t, exec (.push b) s = .next t ∧
      t = { s with count := s.count + 1, win := t.win, rvalid := false } ∧
      (∀ slot : Nat, t.win.read slot = if slot = s.count.toNat then some b else s.win.read slot)

/-- R72, First-Full (`n = w`), from the bytes in `WIN[0..w-2]`: the checksum of the complete window at position 0; every other
slot and register stays. -/
def Obligations.PushCompletingTheWindowReportsItsChecksum : Prop :=
  ∀ (s : State) (b : Byte) (bytes : List Byte), s.errFatal = false → s.count.toNat + 1 = s.wsize.toNat →
    s.wsize.toNat ≤ s.config.maxWindow.toNat →
    s.win.readSlots (List.range (s.wsize.toNat - 1)) = some bytes →
    ∃ t, exec (.push b) s = .next t ∧
      t = { s with
        count := s.count + 1, win := t.win, lastOpen := Crc.fold 0xFFFFFFFF (bytes ++ [b]), lastValid := true,
        result := Crc.fold 0xFFFFFFFF (bytes ++ [b]) ^^^ 0xFFFFFFFF, rpos := 0, rvalid := true } ∧
      (∀ slot : Nat, t.win.read slot = if slot = s.wsize.toNat - 1 then some b else s.win.read slot)

/-- R72, Rolling (`n > w`), evicting `WIN[CURSOR]` through `ROLL`; every other slot and register stays. -/
def Obligations.RollingPushEvictsTheOldestByte : Prop :=
  ∀ (s : State) (b evicted : Byte), s.errFatal = false → s.count.toNat < 2 ^ 64 - 1 →
    1 ≤ s.wsize.toNat → s.wsize.toNat ≤ s.count.toNat → s.lastValid = true →
    s.cursor.toNat < s.config.maxWindow.toNat → s.win.read s.cursor.toNat = some evicted →
    ∃ t, exec (.push b) s = .next t ∧
      t = { s with
        count := s.count + 1, win := t.win, cursor := BitVec.ofNat 24 ((s.cursor.toNat + 1) % s.wsize.toNat),
        lastOpen := Crc.upd s.lastOpen b ^^^ s.roll[evicted.toFin],
        result := Crc.upd s.lastOpen b ^^^ s.roll[evicted.toFin] ^^^ 0xFFFFFFFF,
        rpos := BitVec.ofNat 64 (s.count.toNat + 1 - s.wsize.toNat), rvalid := true } ∧
      (∀ slot : Nat, t.win.read slot = if slot = s.cursor.toNat then some b else s.win.read slot)

/-- R72, R88, R89: a breach of the invariants (in states no run reaches, R75) sets `ERR_FATAL` and changes nothing else; log 5
says why this is a next state. -/
def Obligations.BreachSetsOnlyErrFatal : Prop :=
  ∀ (s : State) (b : Byte), s.errFatal = false → s.count.toNat < 2 ^ 64 - 1 → 1 ≤ s.wsize.toNat →
    s.wsize.toNat ≤ s.config.maxWindow.toNat →
    (s.count.toNat + 1 = s.wsize.toNat → (∃ slot : Nat, slot < s.wsize.toNat - 1 ∧ s.win.read slot = none) →
      exec (.push b) s = .next { s with errFatal := true }) ∧
    (s.wsize.toNat ≤ s.count.toNat → s.lastValid = false →
      exec (.push b) s = .next { s with errFatal := true }) ∧
    (s.wsize.toNat ≤ s.count.toNat → s.lastValid = true → s.cursor.toNat < s.config.maxWindow.toNat →
      s.win.read s.cursor.toNat = none → exec (.push b) s = .next { s with errFatal := true })

/-- A `WIN` slot at or above `MAX_WINDOW` does not exist: a push that would reach one faults (log 6: the model's choice; R35: no
run does). -/
def Obligations.PushAtAnAbsentSlotFaults : Prop :=
  ∀ (s : State) (b : Byte), s.errFatal = false → s.count.toNat < 2 ^ 64 - 1 →
    (s.count.toNat < s.wsize.toNat → s.config.maxWindow.toNat ≤ s.count.toNat →
      exec (.push b) s = .fault .windowSlotAbsent) ∧
    (1 ≤ s.wsize.toNat → s.wsize.toNat ≤ s.count.toNat → s.lastValid = true →
      s.config.maxWindow.toNat ≤ s.cursor.toNat → exec (.push b) s = .fault .windowSlotAbsent)

/-- What a `PUSH` leaves unchanged whenever it answers a next state, in every case of R72: every register it does not name,
and every slot of `WIN` but the one it stores to (`WIN[n-1]` until the window is full, `WIN[CURSOR]` after, none for `w = 0`). -/
def Obligations.PushFrame : Prop :=
  ∀ (s t : State) (b : Byte), exec (.push b) s = .next t →
    t.config = s.config ∧ t.wsize = s.wsize ∧ t.roll = s.roll ∧ t.ckacc = s.ckacc ∧ t.tdata = s.tdata ∧
    t.errIllegal = s.errIllegal ∧ t.errWsize = s.errWsize ∧ t.busy = s.busy ∧ t.port = s.port ∧
    (s.count.toNat + 1 < s.wsize.toNat ∨ s.wsize = 0 →
      t.lastOpen = s.lastOpen ∧ t.lastValid = s.lastValid ∧ t.result = s.result ∧ t.rpos = s.rpos) ∧
    (s.count.toNat < s.wsize.toNat ∨ s.wsize = 0 → t.cursor = s.cursor) ∧
    (∀ slot : Nat,
      (if s.wsize.toNat = 0 then none
        else if s.count.toNat < s.wsize.toNat then some s.count.toNat
        else some s.cursor.toNat) ≠ some slot →
      t.win.read slot = s.win.read slot)

/-! ### Rules about every command word -/

/-- R67: only an accepted `CFG` writes `WSIZE` and `ROLL`. -/
def Obligations.OnlyAcceptedCfgChangesTheContext : Prop :=
  ∀ (s t : State) (cmd : Word), execWord cmd s = .next t →
    (∀ w : WindowSize, decode cmd = .ok (.cfg w) → s.config.maxWindow.toNat < w.toNat) →
    t.wsize = s.wsize ∧ t.roll = s.roll

/-- R24, R25: who writes `CKACC` and `TDATA`. -/
def Obligations.FoldAndTableRegistersHaveTheirOwnWriters : Prop :=
  ∀ (s t : State) (cmd : Word), execWord cmd s = .next t →
    ((∀ b : Byte, decode cmd ≠ .ok (.ckbyte b)) → decode cmd ≠ .ok .ckinit → t.ckacc = s.ckacc) ∧
    ((∀ (sel : TableSel) (i : Byte), decode cmd ≠ .ok (.rdtab sel i)) → t.tdata = s.tdata)

/-- R26, on the words: what sets each sticky flag, and what clears it. For `ERR_FATAL` the causes are the breaches of R72. -/
def Obligations.StickyFlagsAreSetAndClearedAsR26Says : Prop :=
  ∀ (s t : State) (cmd : Word), s.errFatal = false → execWord cmd s = .next t →
    (t.errIllegal = true ↔ (∃ e, decode cmd = .error e) ∨ (s.errIllegal = true ∧ decode cmd ≠ .ok .clrerr)) ∧
    (t.errWsize = true ↔
      (∃ w : WindowSize, decode cmd = .ok (.cfg w) ∧ s.config.maxWindow.toNat < w.toNat) ∨
      (s.errWsize = true ∧ decode cmd ≠ .ok .clrerr)) ∧
    (t.errCount = true ↔
      (∃ b : Byte, decode cmd = .ok (.push b) ∧ s.count.toNat = 2 ^ 64 - 1) ∨
      (s.errCount = true ∧ startsStream s.config cmd = false)) ∧
    (t.errFatal = true ↔
      (∃ b : Byte, decode cmd = .ok (.push b)) ∧ s.count.toNat < 2 ^ 64 - 1 ∧ 1 ≤ s.wsize.toNat ∧
      ((s.count.toNat + 1 = s.wsize.toNat ∧ ∃ slot : Nat, slot < s.wsize.toNat - 1 ∧ s.win.read slot = none) ∨
        (s.wsize.toNat ≤ s.count.toNat ∧ (s.lastValid = false ∨ s.win.read s.cursor.toNat = none))))

/-- R89: a command that raises an error changes only the error's flag, and a flag already 1 stays 1. The causes are those of
R88; a breach is seen by its flag. -/
def Obligations.ErroneousCommandChangesOnlyItsFlag : Prop :=
  ∀ (s t : State) (cmd : Word), s.errFatal = false → execWord cmd s = .next t →
    ((∃ e, decode cmd = .error e) → t = { s with errIllegal := true }) ∧
    ((∃ w : WindowSize, decode cmd = .ok (.cfg w) ∧ s.config.maxWindow.toNat < w.toNat) →
      t = { s with errWsize := true }) ∧
    ((∃ b : Byte, decode cmd = .ok (.push b) ∧ s.count.toNat = 2 ^ 64 - 1) → t = { s with errCount := true }) ∧
    (t.errFatal = true → t = { s with errFatal := true }) ∧
    (s.errIllegal = false → t.errIllegal = true → t = { s with errIllegal := true }) ∧
    (s.errWsize = false → t.errWsize = true → t = { s with errWsize := true }) ∧
    (s.errCount = false → t.errCount = true → t = { s with errCount := true })

/-- R106, last sentence, and beyond it: these words leave the results, and the whole stream, alone. That a rejected `CFG` is among
them is R66 and R89; `WIN`, `CURSOR` and the open CRC follow from each word's own rule (R49, R65, R68, R69, R81, R82), and from
R90 where the block ignores the word. -/
def Obligations.CommandsOutsideTheStreamLeaveItAlone : Prop :=
  ∀ (s t : State) (cmd : Word), execWord cmd s = .next t →
    pushedByte cmd = none → startsStream s.config cmd = false →
    t.rvalid = s.rvalid ∧ t.result = s.result ∧ t.rpos = s.rpos ∧ t.count = s.count ∧ t.win = s.win ∧
    t.cursor = s.cursor ∧ t.lastOpen = s.lastOpen ∧ t.lastValid = s.lastValid

/-- R78: in the zero window every accepted push leaves `RVALID = 0`, and only a `CFG` with `W >= 1` leaves this context. -/
def Obligations.ZeroWindowIsAbsorbing : Prop :=
  ∀ (s t : State) (cmd : Word), s.wsize = 0 → execWord cmd s = .next t →
    (s.errFatal = false → s.count.toNat < 2 ^ 64 - 1 → pushedByte cmd ≠ none → t.rvalid = false) ∧
    (t.wsize ≠ 0 → ∃ w : WindowSize, decode cmd = .ok (.cfg w) ∧ 1 ≤ w.toNat)

/-! ### Status and the read port -/

/-- R28: the layout of `STATUS`, as bits and as one word, and its reset value. -/
def Obligations.StatusWordHasTheLayoutOfR28 : Prop :=
  ∀ s : State,
    (readPort s 0x00).getLsbD 0 = s.rvalid ∧
    (readPort s 0x00).getLsbD 1 = s.busy ∧
    (readPort s 0x00).extractLsb' 2 2 = s.phase.code ∧
    (readPort s 0x00).getLsbD 4 = s.errIllegal ∧
    (readPort s 0x00).getLsbD 5 = s.errWsize ∧
    (readPort s 0x00).getLsbD 6 = s.errCount ∧
    (readPort s 0x00).getLsbD 7 = s.errFatal ∧
    (readPort s 0x00).extractLsb' 8 24 = 0 ∧
    readPort s 0x00 =
      (BitVec.ofBool s.rvalid).setWidth 32 ||| (BitVec.ofBool s.busy).setWidth 32 <<< 1 |||
      s.phase.code.setWidth 32 <<< 2 ||| (BitVec.ofBool s.errIllegal).setWidth 32 <<< 4 |||
      (BitVec.ofBool s.errWsize).setWidth 32 <<< 5 ||| (BitVec.ofBool s.errCount).setWidth 32 <<< 6 |||
      (BitVec.ofBool s.errFatal).setWidth 32 <<< 7 ∧
    readPort (hardwareReset s) 0x00 = 0x00000000

/-- R29: the phase codes by `COUNT` against `w`; `FULL` means a present open CRC in every state that meets the invariants. -/
def Obligations.PhaseFollowsCountAgainstWindowSize : Prop :=
  ∀ s : State,
    (s.wsize.toNat = 0 → s.phase.code = 0b00) ∧
    (1 ≤ s.wsize.toNat → s.count.toNat < s.wsize.toNat → s.phase.code = 0b01) ∧
    (1 ≤ s.wsize.toNat → s.wsize.toNat ≤ s.count.toNat → s.phase.code = 0b10) ∧
    s.phase.code ≠ 0b11 ∧
    (s.Inv → s.phase = .full → s.lastValid = true)

/-- R30: the read-port map, while `BUSY = 0`. -/
def Obligations.ReadPortMapIsThatOfR30 : Prop :=
  ∀ s : State, s.busy = false →
    readPort s 0x00 = s.status ∧
    readPort s 0x01 = s.result ∧
    readPort s 0x02 = s.rpos.extractLsb' 0 32 ∧
    readPort s 0x03 = s.rpos.extractLsb' 32 32 ∧
    readPort s 0x04 = s.ckacc ^^^ 0xFFFFFFFF ∧
    readPort s 0x05 = s.wsize.setWidth 32 ∧
    readPort s 0x06 = s.count.extractLsb' 0 32 ∧
    readPort s 0x07 = s.count.extractLsb' 32 32 ∧
    readPort s 0x08 = s.cursor.setWidth 32 ∧
    readPort s 0x09 = s.tdata ∧
    readPort s 0x0A = s.config.maxWindow.setWidth 32 ∧
    (∀ r : RegNumber, 0x0B ≤ r.toNat → readPort s r = 0x00000000)

/-! ### CRC arithmetic -/

/-- Spot values of R57 and R54's vectors, the check value of R58, the empty checksum of R56. -/
def Obligations.CrcSpotValues : Prop :=
  Crc.baseEntry 0x00 = 0x00000000 ∧ Crc.baseEntry 0x01 = 0x77073096 ∧ Crc.baseEntry 0x80 = 0xEDB88320 ∧
  Crc.baseEntry 0xFF = 0x2D02EF8D ∧
  Crc.upd 0x12345678 0x9A = 0x4E16B702 ∧
  Crc.checksum [] = 0x00000000 ∧
  Crc.checksum [0x31, 0x32, 0x33, 0x34, 0x35, 0x36, 0x37, 0x38, 0x39] = 0xCBF43926

/-- R59: both constructions of the base table give the same entries. -/
def Obligations.DoublingTableEqualsBitSerialTable : Prop :=
  ∀ n : Byte, Crc.doublingEntry n = Crc.baseEntry n

/-- R60, L1 to L6, with L2's "linear only for `c = 0`" and L6's "not `fold(INIT, M XOR N)`". -/
def Obligations.CrcAlgebraLaws : Prop :=
  (∀ x y : Byte, Crc.baseEntry (x ^^^ y) = Crc.baseEntry x ^^^ Crc.baseEntry y) ∧
  Crc.baseEntry 0 = 0 ∧
  (∀ (a : Crc) (c : Byte), Crc.upd a c = Crc.upd a 0 ^^^ Crc.baseEntry c) ∧
  (∀ (a b : Crc) (c : Byte), Crc.upd (a ^^^ b) c = Crc.upd a c ^^^ Crc.upd b 0) ∧
  (∀ (n : Nat) (a b : Crc), Crc.zeroBytes n (a ^^^ b) = Crc.zeroBytes n a ^^^ Crc.zeroBytes n b) ∧
  (∀ n : Nat, Crc.zeroBytes n 0 = 0) ∧
  (∀ (s : Crc) (m : List Byte), Crc.fold s m = Crc.zeroBytes m.length s ^^^ Crc.fold 0 m) ∧
  (∀ m n : List Byte, m.length = n.length →
    Crc.fold 0 (List.zipWith (· ^^^ ·) m n) = Crc.fold 0 m ^^^ Crc.fold 0 n) ∧
  (∀ m n : List Byte, m.length = n.length →
    Crc.fold 0xFFFFFFFF m ^^^ Crc.fold 0xFFFFFFFF n = Crc.fold 0 (List.zipWith (· ^^^ ·) m n) ∧
    Crc.fold 0xFFFFFFFF m ^^^ Crc.fold 0xFFFFFFFF n ≠ Crc.fold 0xFFFFFFFF (List.zipWith (· ^^^ ·) m n)) ∧
  (∀ c : Byte, (∀ a b : Crc, Crc.upd (a ^^^ b) c = Crc.upd a c ^^^ Crc.upd b c) ↔ c = 0)

/-- R61: the rolling entry, its forms (a) to (c), and that `upd(., 0)` is injective and `RollEntry(w, 0)` never 0. -/
def Obligations.RollEntryForms : Prop :=
  (∀ a b : Crc, Crc.upd a 0 = Crc.upd b 0 → a = b) ∧
  ∀ (w : Nat) (x : Byte), 1 ≤ w →
    Crc.rollEntry w x =
      Crc.fold 0xFFFFFFFF ([x] ++ Crc.zeros w) ^^^ Crc.fold 0xFFFFFFFF (Crc.zeros w) ∧
    Crc.rollEntry w x = Crc.zeroBytes w (Crc.upd 0xFFFFFFFF x ^^^ 0xFFFFFFFF) ∧
    Crc.rollEntry w x = Crc.zeroBytes w (Crc.baseEntry (x ^^^ 0xFF) ^^^ 0xFF000000) ∧
    Crc.rollEntry w x = Crc.fold 0 ([x] ++ Crc.zeros w) ^^^ Crc.rollEntry w 0 ∧
    Crc.rollEntry w 0 = Crc.zeroBytes w 0xD202EF8D ∧
    Crc.rollEntry w 0 ≠ 0

/-- R63: the contract of the rolling table. -/
def Obligations.RollingTableMeetsItsContract : Prop :=
  ∀ (w : Nat) (x n : Byte) (m : List Byte), 1 ≤ w → m.length = w - 1 →
    Crc.upd (Crc.fold 0xFFFFFFFF ([x] ++ m)) n ^^^ Crc.rollEntry w x = Crc.fold 0xFFFFFFFF (m ++ [n])

/-! ### Invariants and runs -/

/-- The reset state of every valid parameter, and `State.reset`, meet the invariants (R31, R76). -/
def Obligations.ResetStateMeetsTheInvariants : Prop :=
  (∀ c : Config, c.valid → (State.resetWith c).Inv ∧ (State.resetWith c).CrcInv) ∧ State.reset.Inv ∧ State.reset.CrcInv

/-- Every step keeps the invariants of R31, from every state that meets them. -/
def Obligations.StepKeepsTheInvariants : Prop :=
  ∀ s t : State, s.Inv → step s = .next t → t.Inv

/-- Every step keeps the meaning of the result registers (R20, R76): what is reported is the checksum of the logical window. -/
def Obligations.StepKeepsTheReportedChecksumRight : Prop :=
  ∀ s t : State, s.Inv → s.CrcInv → step s = .next t → t.CrcInv

/-- Every command, and every step, completes in every state that meets the invariants (R88: nothing beyond the four errors;
R109: every command completes). -/
def Obligations.EveryCommandCompletes : Prop :=
  (∀ (s : State) (i : Instr), s.Inv → ∃ t, exec i s = .next t) ∧
  (∀ s : State, s.Inv → ∃ t, step s = .next t)

/-- R31, items (1) to (5), of every state of a run. -/
def Obligations.ReachableStatesMeetR31 : Prop :=
  ∀ s : State, Reachable s →
    (∀ slot : Nat, (s.win.read slot).isSome = true ↔ slot < min s.count.toNat s.wsize.toNat) ∧
    (s.lastValid = true ↔ s.wsize.toNat ≤ s.count.toNat ∧ 1 ≤ s.wsize.toNat) ∧
    (1 ≤ s.wsize.toNat → s.cursor.toNat < s.wsize.toNat) ∧
    (s.count.toNat < s.wsize.toNat → s.cursor = 0) ∧
    (s.wsize = 0 → s.cursor = 0) ∧
    s.roll = Crc.rollTable s.wsize.toNat ∧
    s.errFatal = false

/-- R75: in no state of a run does a `PUSH` raise `InvariantBreach`; and it never faults there (R35). -/
def Obligations.NoReachablePushBreaches : Prop :=
  ∀ (s : State) (b : Byte), Reachable s → ∃ t, exec (.push b) s = .next t ∧ t.errFatal = false

/-- R76: rolling equals recomputing. `words` is any sequence of command words after a stream reset that starts no new stream;
`pushed` is its stream: the bytes its `PUSH`es push, up to the 2^64 - 1 that are accepted (R72 step 1). -/
def Obligations.RollingEqualsRecompute : Prop :=
  ∀ (s : State) (words : List Word) (pushed : List Byte), s.Inv → s.count = 0 → 1 ≤ s.wsize.toNat →
    (∀ cmd ∈ words, startsStream s.config cmd = false) →
    pushed = (words.filterMap pushedByte).take (2 ^ 64 - 1) → s.wsize.toNat ≤ pushed.length →
    ∃ t, execWords words s = .next t ∧
      t.count.toNat = pushed.length ∧
      t.logicalWindow = some (pushed.drop (pushed.length - s.wsize.toNat)) ∧
      t.lastOpen = Crc.fold 0xFFFFFFFF (pushed.drop (pushed.length - s.wsize.toNat)) ∧
      t.result = Crc.checksum (pushed.drop (pushed.length - s.wsize.toNat)) ∧
      t.rpos.toNat = pushed.length - s.wsize.toNat ∧
      t.rvalid = true

/-- R77, R84: on a fresh stream the adapter emits the pairs `(i, checksum(src[i .. i+w]))` for `i = 0, ..., |src| - w`, and none
if `w = 0` or `|src| < w`. -/
def Obligations.ChecksumStreamEmitsEveryWindow : Prop :=
  ∀ (s : State) (src : List Byte), s.Inv → s.port = [] → s.count = 0 → src.length < 2 ^ 64 →
    ∃ t, checksumStream src s =
      .next (t,
        if s.wsize = 0 then []
        else (List.range (src.length + 1 - s.wsize.toNat)).map fun i =>
          (BitVec.ofNat 64 i, Crc.checksum ((src.drop i).take s.wsize.toNat)))

/-- R85: an error item is forwarded where it stands and leaves everything before and after as without it; on bytes alone the
adapter is that of R84. -/
def Obligations.ErrorItemsPassThrough : Prop :=
  ∀ ε : Type,
    (∀ (before after : List (Item ε)) (e : ε) (s t u : State) (out out' : List (Emitted ε)),
      checksumResultStream before s = .next (t, out) → checksumResultStream after t = .next (u, out') →
      checksumResultStream (before ++ .error e :: after) s = .next (u, out ++ .error e :: out')) ∧
    (∀ (src : List Byte) (s t : State) (pairs : List Pair),
      checksumStream src s = .next (t, pairs) →
      checksumResultStream (src.map (Item.byte (ε := ε))) s = .next (t, pairs.map .pair))

/-- R70: the fold unit computes `checksum`, whatever else the host sends in between (no second `CKINIT`, no reset). -/
def Obligations.FoldUnitComputesTheChecksum : Prop :=
  ∀ (s : State) (words : List Word), s.Inv → (∀ cmd ∈ words, decode cmd ≠ .ok .ckinit) →
    ∃ t, execWords (encode .ckinit :: words) s = .next t ∧
      t.ckacc = Crc.fold 0xFFFFFFFF (words.filterMap foldedByte) ∧
      readPort t 0x04 = Crc.checksum (words.filterMap foldedByte)
end

