-- ==== Sys2Proof/Laws/Crc.lean ====
section
/-! SUPPORT. Small facts of the CRC functions: the closed form, the fold, the entries of the rolling table. -/

namespace Sys2Proof.Machine.Crc

/-- The two representations are exchanged by one function, its own inverse (R53). -/
@[simp] theorem close_close (o : Crc) : close (close o) = o := by simp [close]

theorem close_eq_xor (o : Crc) : close o = o ^^^ Config.init := rfl

@[simp] theorem fold_nil (s : Crc) : fold s [] = s := rfl

@[simp] theorem fold_cons (s : Crc) (c : Byte) (m : List Byte) : fold s (c :: m) = fold (upd s c) m := rfl

/-- The fold of a concatenation (R55). -/
theorem fold_append (s : Crc) (m n : List Byte) : fold s (m ++ n) = fold (fold s m) n := by
  induction m generalizing s with
  | nil => rfl
  | cons c m ih => exact ih (upd s c)

theorem fold_snoc (s : Crc) (m : List Byte) (c : Byte) : fold s (m ++ [c]) = upd (fold s m) c := by
  simp [fold_append]

@[simp] theorem zeros_length (n : Nat) : (zeros n).length = n := by simp [zeros]

/-- The closed fold is the checksum (R56). -/
theorem close_fold (m : List Byte) : close (fold Config.init m) = checksum m := rfl

theorem rollTable_zero : rollTable 0 = Vector.replicate 256 0 := rfl

/-- An entry of the rolling table of a nonzero window (R62). -/
theorem rollTable_get {w : Nat} (h : w ≠ 0) (x : Byte) : (rollTable w)[x.toFin] = rollEntry w x := by
  simp only [rollTable, if_neg h, Fin.getElem_fin, Vector.getElem_ofFn]

/-- An entry of the zero window's table (R62). -/
theorem rollTable_zero_get (x : Byte) : (rollTable 0)[x.toFin] = 0 := by
  simp [rollTable, Fin.getElem_fin]

/-- One shift-and-conditional-XOR step is linear over XOR (R60, the ground of L1). -/
theorem shiftStep_xor (a b : Crc) : shiftStep (a ^^^ b) = shiftStep a ^^^ shiftStep b := by
  simp only [shiftStep, BitVec.getLsbD_xor, BitVec.ushiftRight_xor_distrib]
  cases a.getLsbD 0 <;> cases b.getLsbD 0 <;> simp only [Bool.xor_false, Bool.xor_true, Bool.not_false, Bool.not_true,
    if_true, if_false, Bool.false_eq_true]
  · rw [← BitVec.xor_assoc]
  · rw [BitVec.xor_assoc, BitVec.xor_assoc, BitVec.xor_comm poly]
  · rw [BitVec.xor_assoc (a >>> 1), ← BitVec.xor_assoc poly, BitVec.xor_comm poly, BitVec.xor_assoc (b >>> 1),
      BitVec.xor_self, BitVec.xor_zero]

theorem shiftSteps_xor (k : Nat) (a b : Crc) : shiftSteps k (a ^^^ b) = shiftSteps k a ^^^ shiftSteps k b := by
  induction k generalizing a b with
  | zero => rfl
  | succ k ih => simp only [shiftSteps, shiftStep_xor, ih]

end Sys2Proof.Machine.Crc
end

