-- ==== Sys2Proof/Laws/Memory.lean ====
section
/-! SUPPORT. The window buffer: reading after writing, the canonical form, the written slots, reading several slots. -/

namespace Sys2Proof.Machine

@[simp] theorem Memory.read_empty (slot : Nat) : Memory.read Memory.empty slot = none := rfl

@[simp] theorem Memory.slots_empty : Memory.slots Memory.empty = [] := rfl

theorem Memory.wf_empty : Memory.wf Memory.empty := List.Pairwise.nil

/-- A read after a write: the slot written holds the byte, every other slot is as before. -/
theorem Memory.read_write (m : Memory) (slot a : Nat) (b : Byte) :
    (m.write slot b).read a = if a = slot then some b else m.read a := by
  induction m with
  | nil => simp [Memory.write, Memory.read, eq_comm]
  | cons cell m ih =>
    obtain ⟨k, v⟩ := cell
    simp only [Memory.write]
    split
    · simp [Memory.read, eq_comm]
    · split
      · subst k
        by_cases h : slot = a
        · subst h; simp [Memory.read]
        · simp [Memory.read, h, Ne.symm h]
      · simp only [Memory.read, ih]
        split <;> split <;> simp_all

@[simp] theorem Memory.read_write_same (m : Memory) (slot : Nat) (b : Byte) :
    (m.write slot b).read slot = some b := by simp [Memory.read_write]

theorem Memory.read_write_other (m : Memory) {slot a : Nat} (b : Byte) (h : a ≠ slot) :
    (m.write slot b).read a = m.read a := by simp [Memory.read_write, h]

/-- The slots of a written memory are the slot written and those there before. -/
theorem Memory.mem_slots_write (m : Memory) (slot a : Nat) (b : Byte) :
    a ∈ (m.write slot b).slots ↔ a = slot ∨ a ∈ m.slots := by
  induction m with
  | nil => simp [Memory.write, Memory.slots]
  | cons cell m ih =>
    obtain ⟨k, v⟩ := cell
    simp only [Memory.slots] at ih
    simp only [Memory.write]
    split
    · simp [Memory.slots]
    · split
      · subst k; simp [Memory.slots]
      · simp only [Memory.slots, List.map_cons, List.mem_cons, ih]; tauto

/-- The canonical form in terms of the slots. -/
theorem Memory.wf_iff_slots (m : Memory) : m.wf ↔ m.slots.Pairwise (· < ·) := by
  simp [Memory.wf, Memory.slots, List.pairwise_map]

/-- A write keeps the canonical form. -/
theorem Memory.write_wf (m : Memory) (slot : Nat) (b : Byte) (h : m.wf) : (m.write slot b).wf := by
  induction m with
  | nil => simp [Memory.write, Memory.wf]
  | cons cell m ih =>
    obtain ⟨k, v⟩ := cell
    have hm : Memory.wf m := List.Pairwise.of_cons h
    have hk : ∀ y ∈ m, k < y.1 := fun y hy => List.rel_of_pairwise_cons h hy
    simp only [Memory.write]
    split
    case isTrue hlt =>
      refine List.Pairwise.cons ?_ h
      rintro y hy
      rcases List.mem_cons.1 hy with rfl | hy
      · exact hlt
      · exact Nat.lt_trans hlt (hk y hy)
    case isFalse hge =>
      split
      case isTrue heq =>
        subst heq
        exact List.Pairwise.cons hk hm
      case isFalse hne =>
        refine List.Pairwise.cons ?_ (ih hm)
        intro y hy
        have : y.1 ∈ Memory.slots (Memory.write m slot b) := List.mem_map_of_mem hy
        rcases (Memory.mem_slots_write m slot y.1 b).1 this with h' | h'
        · show k < y.1
          omega
        · obtain ⟨z, hz, hzy⟩ := List.mem_map.1 h'
          show k < y.1
          rw [← hzy]; exact hk z hz

/-- In any memory a slot reads as a byte exactly when it is listed. -/
theorem Memory.read_isSome_iff (m : Memory) (slot : Nat) : (m.read slot).isSome ↔ slot ∈ m.slots := by
  induction m with
  | nil => simp [Memory.read, Memory.slots]
  | cons cell m ih =>
    obtain ⟨k, v⟩ := cell
    simp only [Memory.slots] at ih
    simp only [Memory.read, Memory.slots, List.map_cons, List.mem_cons]
    split
    · simp_all
    · rw [ih]
      constructor
      · exact Or.inr
      · rintro (h | h)
        · exact absurd h.symm ‹_›
        · exact h

/-- Two canonical memories that read alike are equal. -/
theorem Memory.eq_of_read_eq {m m' : Memory} (h : m.wf) (h' : m'.wf) (heq : ∀ slot, m.read slot = m'.read slot) :
    m = m' := by
  induction m generalizing m' with
  | nil =>
    cases m' with
    | nil => rfl
    | cons cell m' => have := heq cell.1; simp [Memory.read] at this
  | cons cell m ih =>
    obtain ⟨k, v⟩ := cell
    cases m' with
    | nil => have := heq k; simp [Memory.read] at this
    | cons cell' m' =>
      obtain ⟨k', v'⟩ := cell'
      have hk : ∀ a ∈ Memory.slots m, k < a := by
        intro a ha
        obtain ⟨y, hy, rfl⟩ := List.mem_map.1 ha
        exact List.rel_of_pairwise_cons h hy
      have hk' : ∀ a ∈ Memory.slots m', k' < a := by
        intro a ha
        obtain ⟨y, hy, rfl⟩ := List.mem_map.1 ha
        exact List.rel_of_pairwise_cons h' hy
      have key : k = k' := by
        rcases Nat.lt_trichotomy k k' with hlt | heq' | hgt
        · exfalso
          have h1 := heq k
          simp only [Memory.read, if_neg (show ¬ k' = k by omega), if_true] at h1
          have : k ∈ Memory.slots m' := (Memory.read_isSome_iff m' k).1 (by rw [← h1]; rfl)
          have := hk' k this; omega
        · exact heq'
        · exfalso
          have h1 := heq k'
          simp only [Memory.read, if_neg (show ¬ k = k' by omega), if_true] at h1
          have : k' ∈ Memory.slots m := (Memory.read_isSome_iff m k').1 (by rw [h1]; rfl)
          have := hk k' this; omega
      subst key
      have hv := heq k
      simp only [Memory.read, if_true, Option.some.injEq] at hv
      subst hv
      congr 1
      refine ih (List.Pairwise.of_cons h) (List.Pairwise.of_cons h') fun slot => ?_
      by_cases hs : k = slot
      · subst hs
        have a : Memory.read m k = none := by
          rw [← Option.not_isSome_iff_eq_none, Memory.read_isSome_iff]
          intro hmem; have := hk k hmem; omega
        have b : Memory.read m' k = none := by
          rw [← Option.not_isSome_iff_eq_none, Memory.read_isSome_iff]
          intro hmem; have := hk' k hmem; omega
        rw [a, b]
      · have := heq slot
        simpa only [Memory.read, if_neg hs] using this

/-- Storing in the slot after the written ones `0 .. k-1` (Filling and First-Full). -/
theorem Memory.slots_write_next (m : Memory) (k : Nat) (b : Byte) (h : m.slots = List.range k) :
    (m.write k b).slots = List.range (k + 1) := by
  have hwf : m.wf := by rw [Memory.wf_iff_slots, h]; exact List.pairwise_lt_range
  have hw := (Memory.wf_iff_slots _).1 (Memory.write_wf m k b hwf)
  have hr : (List.range (k + 1)).Pairwise (· < ·) := List.pairwise_lt_range
  refine List.Perm.eq_of_pairwise (le := (· < ·)) (fun a b _ _ h1 h2 => absurd h1 (Nat.lt_asymm h2)) hw hr ?_
  refine (List.perm_ext_iff_of_nodup (hw.imp Nat.ne_of_lt) (hr.imp Nat.ne_of_lt)).2 fun a => ?_
  rw [Memory.mem_slots_write, h]
  simp only [List.mem_range]; omega

/-- Storing in a slot already written (Rolling) keeps the written slots. -/
theorem Memory.slots_write_old (m : Memory) (slot : Nat) (b : Byte) (h : m.wf) (hs : slot ∈ m.slots) :
    (m.write slot b).slots = m.slots := by
  have hw := (Memory.wf_iff_slots _).1 (Memory.write_wf m slot b h)
  have hr := (Memory.wf_iff_slots _).1 h
  refine List.Perm.eq_of_pairwise (le := (· < ·)) (fun a b _ _ h1 h2 => absurd h1 (Nat.lt_asymm h2)) hw hr ?_
  refine (List.perm_ext_iff_of_nodup (hw.imp Nat.ne_of_lt) (hr.imp Nat.ne_of_lt)).2 fun a => ?_
  rw [Memory.mem_slots_write]
  constructor
  · rintro (rfl | h) <;> assumption
  · exact Or.inr

/-- Reading several slots succeeds with `bytes` exactly when each slot holds the byte at its place. -/
theorem Memory.readSlots_eq_some (m : Memory) (slots : List Nat) (bytes : List Byte) :
    m.readSlots slots = some bytes ↔ slots.map m.read = bytes.map some := by
  induction slots generalizing bytes with
  | nil => cases bytes <;> simp [Memory.readSlots]
  | cons slot rest ih =>
    cases bytes with
    | nil =>
      simp only [Memory.readSlots, List.map_cons, List.map_nil]
      cases m.read slot <;> cases Memory.readSlots m rest <;> simp
    | cons b bs =>
      simp only [Memory.readSlots, List.map_cons]
      cases hr : m.read slot <;> cases hs : Memory.readSlots m rest
      · simp
      · simp
      · have := ih bs; rw [hs] at this; simp at this ⊢; intro _; exact this
      · have := ih bs; rw [hs] at this; simp at this ⊢; intro _; exact this

/-- Reading several slots fails exactly when one of them is `unwritten`. -/
theorem Memory.readSlots_eq_none (m : Memory) (slots : List Nat) :
    m.readSlots slots = none ↔ ∃ slot ∈ slots, m.read slot = none := by
  induction slots with
  | nil => simp [Memory.readSlots]
  | cons slot rest ih =>
    simp only [Memory.readSlots, List.mem_cons]
    cases hr : m.read slot <;> cases hs : Memory.readSlots m rest <;> simp_all

theorem Memory.readSlots_length {m : Memory} {slots : List Nat} {bytes : List Byte}
    (h : m.readSlots slots = some bytes) : bytes.length = slots.length := by
  have := congrArg List.length ((Memory.readSlots_eq_some m slots bytes).1 h)
  simpa using this.symm

theorem Memory.readSlots_append (m : Memory) (xs ys : List Nat) (bs cs : List Byte)
    (hx : m.readSlots xs = some bs) (hy : m.readSlots ys = some cs) :
    m.readSlots (xs ++ ys) = some (bs ++ cs) := by
  rw [Memory.readSlots_eq_some] at *
  simp [hx, hy]

/-- A write outside the slots read does not change what they hold. -/
theorem Memory.readSlots_write_other (m : Memory) (slots : List Nat) (slot : Nat) (b : Byte) (h : slot ∉ slots) :
    (m.write slot b).readSlots slots = m.readSlots slots := by
  induction slots with
  | nil => rfl
  | cons a rest ih =>
    rw [List.mem_cons, not_or] at h
    simp only [Memory.readSlots, Memory.read_write_other m b (Ne.symm h.1), ih h.2]

end Sys2Proof.Machine
end

