-- ==== Sys2Proof/Laws/State.lean ====
section
/-! SUPPORT. One lemma per field per named update of State: the value a written field gets, and that every other field stays. -/

namespace Sys2Proof.Machine

/-! ### raise -/

@[simp] theorem raise_config (e : ErrorKind) (s : State) : (raise e s).config = s.config := by cases e <;> rfl
@[simp] theorem raise_wsize (e : ErrorKind) (s : State) : (raise e s).wsize = s.wsize := by cases e <;> rfl
@[simp] theorem raise_roll (e : ErrorKind) (s : State) : (raise e s).roll = s.roll := by cases e <;> rfl
@[simp] theorem raise_win (e : ErrorKind) (s : State) : (raise e s).win = s.win := by cases e <;> rfl
@[simp] theorem raise_cursor (e : ErrorKind) (s : State) : (raise e s).cursor = s.cursor := by cases e <;> rfl
@[simp] theorem raise_count (e : ErrorKind) (s : State) : (raise e s).count = s.count := by cases e <;> rfl
@[simp] theorem raise_lastOpen (e : ErrorKind) (s : State) : (raise e s).lastOpen = s.lastOpen := by cases e <;> rfl
@[simp] theorem raise_lastValid (e : ErrorKind) (s : State) : (raise e s).lastValid = s.lastValid := by cases e <;> rfl
@[simp] theorem raise_rvalid (e : ErrorKind) (s : State) : (raise e s).rvalid = s.rvalid := by cases e <;> rfl
@[simp] theorem raise_result (e : ErrorKind) (s : State) : (raise e s).result = s.result := by cases e <;> rfl
@[simp] theorem raise_rpos (e : ErrorKind) (s : State) : (raise e s).rpos = s.rpos := by cases e <;> rfl
@[simp] theorem raise_ckacc (e : ErrorKind) (s : State) : (raise e s).ckacc = s.ckacc := by cases e <;> rfl
@[simp] theorem raise_tdata (e : ErrorKind) (s : State) : (raise e s).tdata = s.tdata := by cases e <;> rfl
@[simp] theorem raise_errIllegal (e : ErrorKind) (s : State) : (raise e s).errIllegal = (s.errIllegal || e == .illegalCommand) := by cases e <;> simp [raise]
@[simp] theorem raise_errWsize (e : ErrorKind) (s : State) : (raise e s).errWsize = (s.errWsize || e == .windowTooLarge) := by cases e <;> simp [raise]
@[simp] theorem raise_errCount (e : ErrorKind) (s : State) : (raise e s).errCount = (s.errCount || e == .countOverflow) := by cases e <;> simp [raise]
@[simp] theorem raise_errFatal (e : ErrorKind) (s : State) : (raise e s).errFatal = (s.errFatal || e == .invariantBreach) := by cases e <;> simp [raise]
@[simp] theorem raise_busy (e : ErrorKind) (s : State) : (raise e s).busy = s.busy := by cases e <;> rfl
@[simp] theorem raise_port (e : ErrorKind) (s : State) : (raise e s).port = s.port := by cases e <;> rfl

/-! ### clearRecoverable -/

@[simp] theorem clearRecoverable_config (s : State) : (clearRecoverable s).config = s.config := rfl
@[simp] theorem clearRecoverable_wsize (s : State) : (clearRecoverable s).wsize = s.wsize := rfl
@[simp] theorem clearRecoverable_roll (s : State) : (clearRecoverable s).roll = s.roll := rfl
@[simp] theorem clearRecoverable_win (s : State) : (clearRecoverable s).win = s.win := rfl
@[simp] theorem clearRecoverable_cursor (s : State) : (clearRecoverable s).cursor = s.cursor := rfl
@[simp] theorem clearRecoverable_count (s : State) : (clearRecoverable s).count = s.count := rfl
@[simp] theorem clearRecoverable_lastOpen (s : State) : (clearRecoverable s).lastOpen = s.lastOpen := rfl
@[simp] theorem clearRecoverable_lastValid (s : State) : (clearRecoverable s).lastValid = s.lastValid := rfl
@[simp] theorem clearRecoverable_rvalid (s : State) : (clearRecoverable s).rvalid = s.rvalid := rfl
@[simp] theorem clearRecoverable_result (s : State) : (clearRecoverable s).result = s.result := rfl
@[simp] theorem clearRecoverable_rpos (s : State) : (clearRecoverable s).rpos = s.rpos := rfl
@[simp] theorem clearRecoverable_ckacc (s : State) : (clearRecoverable s).ckacc = s.ckacc := rfl
@[simp] theorem clearRecoverable_tdata (s : State) : (clearRecoverable s).tdata = s.tdata := rfl
@[simp] theorem clearRecoverable_errIllegal (s : State) : (clearRecoverable s).errIllegal = false := rfl
@[simp] theorem clearRecoverable_errWsize (s : State) : (clearRecoverable s).errWsize = false := rfl
@[simp] theorem clearRecoverable_errCount (s : State) : (clearRecoverable s).errCount = s.errCount := rfl
@[simp] theorem clearRecoverable_errFatal (s : State) : (clearRecoverable s).errFatal = s.errFatal := rfl
@[simp] theorem clearRecoverable_busy (s : State) : (clearRecoverable s).busy = s.busy := rfl
@[simp] theorem clearRecoverable_port (s : State) : (clearRecoverable s).port = s.port := rfl

/-! ### streamReset -/

@[simp] theorem streamReset_config (s : State) : (streamReset s).config = s.config := rfl
@[simp] theorem streamReset_wsize (s : State) : (streamReset s).wsize = s.wsize := rfl
@[simp] theorem streamReset_roll (s : State) : (streamReset s).roll = s.roll := rfl
@[simp] theorem streamReset_win (s : State) : (streamReset s).win = Memory.empty := rfl
@[simp] theorem streamReset_cursor (s : State) : (streamReset s).cursor = 0 := rfl
@[simp] theorem streamReset_count (s : State) : (streamReset s).count = 0 := rfl
@[simp] theorem streamReset_lastOpen (s : State) : (streamReset s).lastOpen = 0 := rfl
@[simp] theorem streamReset_lastValid (s : State) : (streamReset s).lastValid = false := rfl
@[simp] theorem streamReset_rvalid (s : State) : (streamReset s).rvalid = false := rfl
@[simp] theorem streamReset_result (s : State) : (streamReset s).result = 0 := rfl
@[simp] theorem streamReset_rpos (s : State) : (streamReset s).rpos = 0 := rfl
@[simp] theorem streamReset_ckacc (s : State) : (streamReset s).ckacc = s.ckacc := rfl
@[simp] theorem streamReset_tdata (s : State) : (streamReset s).tdata = s.tdata := rfl
@[simp] theorem streamReset_errIllegal (s : State) : (streamReset s).errIllegal = s.errIllegal := rfl
@[simp] theorem streamReset_errWsize (s : State) : (streamReset s).errWsize = s.errWsize := rfl
@[simp] theorem streamReset_errCount (s : State) : (streamReset s).errCount = false := rfl
@[simp] theorem streamReset_errFatal (s : State) : (streamReset s).errFatal = s.errFatal := rfl
@[simp] theorem streamReset_busy (s : State) : (streamReset s).busy = s.busy := rfl
@[simp] theorem streamReset_port (s : State) : (streamReset s).port = s.port := rfl

/-! ### hardwareReset -/

@[simp] theorem hardwareReset_config (s : State) : (hardwareReset s).config = s.config := rfl
@[simp] theorem hardwareReset_wsize (s : State) : (hardwareReset s).wsize = 0 := rfl
@[simp] theorem hardwareReset_roll (s : State) : (hardwareReset s).roll = Crc.rollTable 0 := rfl
@[simp] theorem hardwareReset_win (s : State) : (hardwareReset s).win = Memory.empty := rfl
@[simp] theorem hardwareReset_cursor (s : State) : (hardwareReset s).cursor = 0 := rfl
@[simp] theorem hardwareReset_count (s : State) : (hardwareReset s).count = 0 := rfl
@[simp] theorem hardwareReset_lastOpen (s : State) : (hardwareReset s).lastOpen = 0 := rfl
@[simp] theorem hardwareReset_lastValid (s : State) : (hardwareReset s).lastValid = false := rfl
@[simp] theorem hardwareReset_rvalid (s : State) : (hardwareReset s).rvalid = false := rfl
@[simp] theorem hardwareReset_result (s : State) : (hardwareReset s).result = 0 := rfl
@[simp] theorem hardwareReset_rpos (s : State) : (hardwareReset s).rpos = 0 := rfl
@[simp] theorem hardwareReset_ckacc (s : State) : (hardwareReset s).ckacc = Config.init := rfl
@[simp] theorem hardwareReset_tdata (s : State) : (hardwareReset s).tdata = 0 := rfl
@[simp] theorem hardwareReset_errIllegal (s : State) : (hardwareReset s).errIllegal = false := rfl
@[simp] theorem hardwareReset_errWsize (s : State) : (hardwareReset s).errWsize = false := rfl
@[simp] theorem hardwareReset_errCount (s : State) : (hardwareReset s).errCount = false := rfl
@[simp] theorem hardwareReset_errFatal (s : State) : (hardwareReset s).errFatal = false := rfl
@[simp] theorem hardwareReset_busy (s : State) : (hardwareReset s).busy = false := rfl
@[simp] theorem hardwareReset_port (s : State) : (hardwareReset s).port = s.port := rfl

/-! ### configure -/

@[simp] theorem configure_config (w : WindowSize) (s : State) : (configure w s).config = s.config := rfl
@[simp] theorem configure_wsize (w : WindowSize) (s : State) : (configure w s).wsize = w := rfl
@[simp] theorem configure_roll (w : WindowSize) (s : State) : (configure w s).roll = Crc.rollTable w.toNat := rfl
@[simp] theorem configure_win (w : WindowSize) (s : State) : (configure w s).win = Memory.empty := rfl
@[simp] theorem configure_cursor (w : WindowSize) (s : State) : (configure w s).cursor = 0 := rfl
@[simp] theorem configure_count (w : WindowSize) (s : State) : (configure w s).count = 0 := rfl
@[simp] theorem configure_lastOpen (w : WindowSize) (s : State) : (configure w s).lastOpen = 0 := rfl
@[simp] theorem configure_lastValid (w : WindowSize) (s : State) : (configure w s).lastValid = false := rfl
@[simp] theorem configure_rvalid (w : WindowSize) (s : State) : (configure w s).rvalid = false := rfl
@[simp] theorem configure_result (w : WindowSize) (s : State) : (configure w s).result = 0 := rfl
@[simp] theorem configure_rpos (w : WindowSize) (s : State) : (configure w s).rpos = 0 := rfl
@[simp] theorem configure_ckacc (w : WindowSize) (s : State) : (configure w s).ckacc = s.ckacc := rfl
@[simp] theorem configure_tdata (w : WindowSize) (s : State) : (configure w s).tdata = s.tdata := rfl
@[simp] theorem configure_errIllegal (w : WindowSize) (s : State) : (configure w s).errIllegal = s.errIllegal := rfl
@[simp] theorem configure_errWsize (w : WindowSize) (s : State) : (configure w s).errWsize = s.errWsize := rfl
@[simp] theorem configure_errCount (w : WindowSize) (s : State) : (configure w s).errCount = false := rfl
@[simp] theorem configure_errFatal (w : WindowSize) (s : State) : (configure w s).errFatal = s.errFatal := rfl
@[simp] theorem configure_busy (w : WindowSize) (s : State) : (configure w s).busy = s.busy := rfl
@[simp] theorem configure_port (w : WindowSize) (s : State) : (configure w s).port = s.port := rfl

/-! ### setCount -/

@[simp] theorem setCount_config (n : Nat) (s : State) : (setCount n s).config = s.config := rfl
@[simp] theorem setCount_wsize (n : Nat) (s : State) : (setCount n s).wsize = s.wsize := rfl
@[simp] theorem setCount_roll (n : Nat) (s : State) : (setCount n s).roll = s.roll := rfl
@[simp] theorem setCount_win (n : Nat) (s : State) : (setCount n s).win = s.win := rfl
@[simp] theorem setCount_cursor (n : Nat) (s : State) : (setCount n s).cursor = s.cursor := rfl
@[simp] theorem setCount_count (n : Nat) (s : State) : (setCount n s).count = BitVec.ofNat 64 n := rfl
@[simp] theorem setCount_lastOpen (n : Nat) (s : State) : (setCount n s).lastOpen = s.lastOpen := rfl
@[simp] theorem setCount_lastValid (n : Nat) (s : State) : (setCount n s).lastValid = s.lastValid := rfl
@[simp] theorem setCount_rvalid (n : Nat) (s : State) : (setCount n s).rvalid = s.rvalid := rfl
@[simp] theorem setCount_result (n : Nat) (s : State) : (setCount n s).result = s.result := rfl
@[simp] theorem setCount_rpos (n : Nat) (s : State) : (setCount n s).rpos = s.rpos := rfl
@[simp] theorem setCount_ckacc (n : Nat) (s : State) : (setCount n s).ckacc = s.ckacc := rfl
@[simp] theorem setCount_tdata (n : Nat) (s : State) : (setCount n s).tdata = s.tdata := rfl
@[simp] theorem setCount_errIllegal (n : Nat) (s : State) : (setCount n s).errIllegal = s.errIllegal := rfl
@[simp] theorem setCount_errWsize (n : Nat) (s : State) : (setCount n s).errWsize = s.errWsize := rfl
@[simp] theorem setCount_errCount (n : Nat) (s : State) : (setCount n s).errCount = s.errCount := rfl
@[simp] theorem setCount_errFatal (n : Nat) (s : State) : (setCount n s).errFatal = s.errFatal := rfl
@[simp] theorem setCount_busy (n : Nat) (s : State) : (setCount n s).busy = s.busy := rfl
@[simp] theorem setCount_port (n : Nat) (s : State) : (setCount n s).port = s.port := rfl

/-! ### report -/

@[simp] theorem report_config (n : Nat) (o : Crc) (s : State) : (report n o s).config = s.config := rfl
@[simp] theorem report_wsize (n : Nat) (o : Crc) (s : State) : (report n o s).wsize = s.wsize := rfl
@[simp] theorem report_roll (n : Nat) (o : Crc) (s : State) : (report n o s).roll = s.roll := rfl
@[simp] theorem report_win (n : Nat) (o : Crc) (s : State) : (report n o s).win = s.win := rfl
@[simp] theorem report_cursor (n : Nat) (o : Crc) (s : State) : (report n o s).cursor = s.cursor := rfl
@[simp] theorem report_count (n : Nat) (o : Crc) (s : State) : (report n o s).count = s.count := rfl
@[simp] theorem report_lastOpen (n : Nat) (o : Crc) (s : State) : (report n o s).lastOpen = o := rfl
@[simp] theorem report_lastValid (n : Nat) (o : Crc) (s : State) : (report n o s).lastValid = s.lastValid := rfl
@[simp] theorem report_rvalid (n : Nat) (o : Crc) (s : State) : (report n o s).rvalid = true := rfl
@[simp] theorem report_result (n : Nat) (o : Crc) (s : State) : (report n o s).result = Crc.close o := rfl
@[simp] theorem report_rpos (n : Nat) (o : Crc) (s : State) : (report n o s).rpos = BitVec.ofNat 64 (n - s.wsize.toNat) := rfl
@[simp] theorem report_ckacc (n : Nat) (o : Crc) (s : State) : (report n o s).ckacc = s.ckacc := rfl
@[simp] theorem report_tdata (n : Nat) (o : Crc) (s : State) : (report n o s).tdata = s.tdata := rfl
@[simp] theorem report_errIllegal (n : Nat) (o : Crc) (s : State) : (report n o s).errIllegal = s.errIllegal := rfl
@[simp] theorem report_errWsize (n : Nat) (o : Crc) (s : State) : (report n o s).errWsize = s.errWsize := rfl
@[simp] theorem report_errCount (n : Nat) (o : Crc) (s : State) : (report n o s).errCount = s.errCount := rfl
@[simp] theorem report_errFatal (n : Nat) (o : Crc) (s : State) : (report n o s).errFatal = s.errFatal := rfl
@[simp] theorem report_busy (n : Nat) (o : Crc) (s : State) : (report n o s).busy = s.busy := rfl
@[simp] theorem report_port (n : Nat) (o : Crc) (s : State) : (report n o s).port = s.port := rfl

/-! ### deliver -/

@[simp] theorem deliver_config (s : State) (e : PortEvent) : (s.deliver e).config = s.config := rfl
@[simp] theorem deliver_wsize (s : State) (e : PortEvent) : (s.deliver e).wsize = s.wsize := rfl
@[simp] theorem deliver_roll (s : State) (e : PortEvent) : (s.deliver e).roll = s.roll := rfl
@[simp] theorem deliver_win (s : State) (e : PortEvent) : (s.deliver e).win = s.win := rfl
@[simp] theorem deliver_cursor (s : State) (e : PortEvent) : (s.deliver e).cursor = s.cursor := rfl
@[simp] theorem deliver_count (s : State) (e : PortEvent) : (s.deliver e).count = s.count := rfl
@[simp] theorem deliver_lastOpen (s : State) (e : PortEvent) : (s.deliver e).lastOpen = s.lastOpen := rfl
@[simp] theorem deliver_lastValid (s : State) (e : PortEvent) : (s.deliver e).lastValid = s.lastValid := rfl
@[simp] theorem deliver_rvalid (s : State) (e : PortEvent) : (s.deliver e).rvalid = s.rvalid := rfl
@[simp] theorem deliver_result (s : State) (e : PortEvent) : (s.deliver e).result = s.result := rfl
@[simp] theorem deliver_rpos (s : State) (e : PortEvent) : (s.deliver e).rpos = s.rpos := rfl
@[simp] theorem deliver_ckacc (s : State) (e : PortEvent) : (s.deliver e).ckacc = s.ckacc := rfl
@[simp] theorem deliver_tdata (s : State) (e : PortEvent) : (s.deliver e).tdata = s.tdata := rfl
@[simp] theorem deliver_errIllegal (s : State) (e : PortEvent) : (s.deliver e).errIllegal = s.errIllegal := rfl
@[simp] theorem deliver_errWsize (s : State) (e : PortEvent) : (s.deliver e).errWsize = s.errWsize := rfl
@[simp] theorem deliver_errCount (s : State) (e : PortEvent) : (s.deliver e).errCount = s.errCount := rfl
@[simp] theorem deliver_errFatal (s : State) (e : PortEvent) : (s.deliver e).errFatal = s.errFatal := rfl
@[simp] theorem deliver_busy (s : State) (e : PortEvent) : (s.deliver e).busy = s.busy := rfl
@[simp] theorem deliver_port (s : State) (e : PortEvent) : (s.deliver e).port = s.port ++ [e] := rfl

/-! ### atPort -/

@[simp] theorem atPort_config (s : State) (cmd : Word) : (s.atPort cmd).config = s.config := rfl
@[simp] theorem atPort_wsize (s : State) (cmd : Word) : (s.atPort cmd).wsize = s.wsize := rfl
@[simp] theorem atPort_roll (s : State) (cmd : Word) : (s.atPort cmd).roll = s.roll := rfl
@[simp] theorem atPort_win (s : State) (cmd : Word) : (s.atPort cmd).win = s.win := rfl
@[simp] theorem atPort_cursor (s : State) (cmd : Word) : (s.atPort cmd).cursor = s.cursor := rfl
@[simp] theorem atPort_count (s : State) (cmd : Word) : (s.atPort cmd).count = s.count := rfl
@[simp] theorem atPort_lastOpen (s : State) (cmd : Word) : (s.atPort cmd).lastOpen = s.lastOpen := rfl
@[simp] theorem atPort_lastValid (s : State) (cmd : Word) : (s.atPort cmd).lastValid = s.lastValid := rfl
@[simp] theorem atPort_rvalid (s : State) (cmd : Word) : (s.atPort cmd).rvalid = s.rvalid := rfl
@[simp] theorem atPort_result (s : State) (cmd : Word) : (s.atPort cmd).result = s.result := rfl
@[simp] theorem atPort_rpos (s : State) (cmd : Word) : (s.atPort cmd).rpos = s.rpos := rfl
@[simp] theorem atPort_ckacc (s : State) (cmd : Word) : (s.atPort cmd).ckacc = s.ckacc := rfl
@[simp] theorem atPort_tdata (s : State) (cmd : Word) : (s.atPort cmd).tdata = s.tdata := rfl
@[simp] theorem atPort_errIllegal (s : State) (cmd : Word) : (s.atPort cmd).errIllegal = s.errIllegal := rfl
@[simp] theorem atPort_errWsize (s : State) (cmd : Word) : (s.atPort cmd).errWsize = s.errWsize := rfl
@[simp] theorem atPort_errCount (s : State) (cmd : Word) : (s.atPort cmd).errCount = s.errCount := rfl
@[simp] theorem atPort_errFatal (s : State) (cmd : Word) : (s.atPort cmd).errFatal = s.errFatal := rfl
@[simp] theorem atPort_busy (s : State) (cmd : Word) : (s.atPort cmd).busy = false := rfl
@[simp] theorem atPort_port (s : State) (cmd : Word) : (s.atPort cmd).port = .command cmd :: s.port := rfl

end Sys2Proof.Machine
end

