-- ==== Sys2Proof/Laws/Ops.lean ====
section
/-! SUPPORT. What each shared operation, each command and a step can do when it answers a next state. -/

namespace Sys2Proof.Machine

/-- A command on a block that is not in the fault state runs. -/
@[simp] theorem unlessFatal_of_not_fatal {s : State} (h : s.errFatal = false) (r : Result) : unlessFatal s r = r := by
  simp [unlessFatal, h]

/-- A command on a block in the fault state is ignored (R90). -/
@[simp] theorem unlessFatal_of_fatal {s : State} (h : s.errFatal = true) (r : Result) : unlessFatal s r = .next s := by
  simp [unlessFatal, h]

/-- The two ways a command ends in a next state: ignored (R90), or run. -/
theorem unlessFatal_cases {s t : State} {r : Result} (h : unlessFatal s r = .next t) :
    (s.errFatal = true ∧ t = s) ∨ (s.errFatal = false ∧ r = .next t) := by
  cases hf : s.errFatal
  · exact .inr ⟨rfl, by simpa [hf] using h⟩
  · exact .inl ⟨rfl, by simpa [hf, eq_comm] using h⟩

theorem execNop_cases {s t : State} (h : execNop s = .next t) : t = s := by
  obtain ⟨-, rfl⟩ | ⟨-, h⟩ := unlessFatal_cases h
  · rfl
  · cases h; rfl

theorem execClrerr_cases {s t : State} (h : execClrerr s = .next t) :
    (s.errFatal = true ∧ t = s) ∨ (s.errFatal = false ∧ t = clearRecoverable s) := by
  obtain h | ⟨hf, h⟩ := unlessFatal_cases h
  · exact .inl h
  · cases h; exact .inr ⟨hf, rfl⟩

theorem execRdtab_cases {sel : TableSel} {i : Byte} {s t : State} (h : execRdtab sel i s = .next t) :
    (s.errFatal = true ∧ t = s) ∨ (s.errFatal = false ∧ t = { s with tdata := s.tableEntry sel i }) := by
  obtain h | ⟨hf, h⟩ := unlessFatal_cases h
  · exact .inl h
  · cases h; exact .inr ⟨hf, rfl⟩

theorem execCkinit_cases {s t : State} (h : execCkinit s = .next t) :
    (s.errFatal = true ∧ t = s) ∨ (s.errFatal = false ∧ t = { s with ckacc := Config.init }) := by
  obtain h | ⟨hf, h⟩ := unlessFatal_cases h
  · exact .inl h
  · cases h; exact .inr ⟨hf, rfl⟩

theorem execCkbyte_cases {b : Byte} {s t : State} (h : execCkbyte b s = .next t) :
    (s.errFatal = true ∧ t = s) ∨ (s.errFatal = false ∧ t = { s with ckacc := Crc.upd s.ckacc b }) := by
  obtain h | ⟨hf, h⟩ := unlessFatal_cases h
  · exact .inl h
  · cases h; exact .inr ⟨hf, rfl⟩

theorem execSrst_cases {s t : State} (h : execSrst s = .next t) :
    (s.errFatal = true ∧ t = s) ∨ (s.errFatal = false ∧ t = streamReset s) := by
  obtain h | ⟨hf, h⟩ := unlessFatal_cases h
  · exact .inl h
  · cases h; exact .inr ⟨hf, rfl⟩

theorem execIllegal_cases {s t : State} (h : execIllegal s = .next t) :
    (s.errFatal = true ∧ t = s) ∨ (s.errFatal = false ∧ t = raise .illegalCommand s) := by
  obtain h | ⟨hf, h⟩ := unlessFatal_cases h
  · exact .inl h
  · cases h; exact .inr ⟨hf, rfl⟩

/-- `CFG` is ignored, refused with its flag, or accepted (R66). -/
theorem execCfg_cases {w : WindowSize} {s t : State} (h : execCfg w s = .next t) :
    (s.errFatal = true ∧ t = s) ∨
    (s.errFatal = false ∧ s.config.maxWindow.toNat < w.toNat ∧ t = raise .windowTooLarge s) ∨
    (s.errFatal = false ∧ w.toNat ≤ s.config.maxWindow.toNat ∧ t = configure w s) := by
  obtain h | ⟨hf, h⟩ := unlessFatal_cases h
  · exact .inl h
  · split at h
    · cases h; exact .inr (.inl ⟨hf, ‹_›, rfl⟩)
    · cases h; exact .inr (.inr ⟨hf, by omega, rfl⟩)

/-- What a `PUSH` that answers a next state has done (R72): one case for each branch of the rule. -/
theorem execPush_cases {b : Byte} {s t : State} (h : execPush b s = .next t) :
    (s.errFatal = true ∧ t = s) ∨
    (s.errFatal = false ∧ s.count.toNat = 2 ^ 64 - 1 ∧ t = raise .countOverflow s) ∨
    (s.errFatal = false ∧ s.count.toNat ≠ 2 ^ 64 - 1 ∧ s.wsize.toNat = 0 ∧
      t = { setCount (s.count.toNat + 1) s with rvalid := false }) ∨
    (s.errFatal = false ∧ s.count.toNat ≠ 2 ^ 64 - 1 ∧ s.count.toNat + 1 < s.wsize.toNat ∧
      s.slotExists s.count.toNat = true ∧
      t = { setCount (s.count.toNat + 1) s with win := s.win.write s.count.toNat b, rvalid := false }) ∨
    (s.errFatal = false ∧ s.count.toNat ≠ 2 ^ 64 - 1 ∧ s.count.toNat + 1 = s.wsize.toNat ∧
      s.slotExists s.count.toNat = true ∧
      ∃ bytes, (s.win.write s.count.toNat b).readSlots (List.range s.wsize.toNat) = some bytes ∧
        t = { report (s.count.toNat + 1) (Crc.fold Config.init bytes) (setCount (s.count.toNat + 1) s) with
          win := s.win.write s.count.toNat b, lastValid := true }) ∨
    (s.errFatal = false ∧ s.count.toNat ≠ 2 ^ 64 - 1 ∧ 1 ≤ s.wsize.toNat ∧ s.wsize.toNat ≤ s.count.toNat ∧
      s.lastValid = true ∧ s.slotExists s.cursor.toNat = true ∧
      ∃ evicted, s.win.read s.cursor.toNat = some evicted ∧
        t = { report (s.count.toNat + 1) (Crc.upd s.lastOpen b ^^^ s.rollRead evicted)
            (setCount (s.count.toNat + 1) s) with
          win := s.win.write s.cursor.toNat b
          cursor := BitVec.ofNat 24 ((s.cursor.toNat + 1) % s.wsize.toNat) }) ∨
    (s.errFatal = false ∧ s.count.toNat ≠ 2 ^ 64 - 1 ∧ 1 ≤ s.wsize.toNat ∧ t = raise .invariantBreach s ∧
      ((s.count.toNat + 1 = s.wsize.toNat ∧
          (s.win.write s.count.toNat b).readSlots (List.range s.wsize.toNat) = none) ∨
        (s.wsize.toNat ≤ s.count.toNat ∧ (s.lastValid = false ∨ s.win.read s.cursor.toNat = none)))) := by
  obtain h | ⟨hf, h⟩ := unlessFatal_cases h
  · exact .inl h
  · refine .inr ?_
    by_cases hc : s.count.toNat = 2 ^ 64 - 1
    · simp only [if_pos hc] at h
      cases h; exact .inl ⟨hf, hc, rfl⟩
    refine .inr ?_
    simp only [if_neg hc] at h
    by_cases hw : s.wsize.toNat = 0
    · simp only [if_pos hw, pushZeroWindow] at h
      cases h; exact .inl ⟨hf, hc, hw, rfl⟩
    refine .inr ?_
    simp only [if_neg hw] at h
    by_cases hlt : s.count.toNat + 1 < s.wsize.toNat
    · simp only [if_pos hlt, pushFilling, Nat.add_sub_cancel] at h
      split at h
      · cases h; exact .inl ⟨hf, hc, hlt, ‹_›, rfl⟩
      · cases h
    refine .inr ?_
    simp only [if_neg hlt] at h
    by_cases heq : s.count.toNat + 1 = s.wsize.toNat
    · have hslot : s.wsize.toNat - 1 = s.count.toNat := by omega
      simp only [if_pos heq, pushFirstFull, hslot] at h
      split at h
      · split at h
        · cases h; exact .inl ⟨hf, hc, heq, ‹_›, _, ‹_›, rfl⟩
        · cases h; exact .inr (.inr ⟨hf, hc, by omega, rfl, .inl ⟨heq, ‹_›⟩⟩)
      · cases h
    refine .inr ?_
    simp only [if_neg heq, pushRolling] at h
    have h1 : 1 ≤ s.wsize.toNat := by omega
    have h2 : s.wsize.toNat ≤ s.count.toNat := by omega
    split at h
    · cases h; exact .inr ⟨hf, hc, h1, rfl, .inr ⟨h2, .inl ‹_›⟩⟩
    · split at h
      · split at h
        · cases h; exact .inl ⟨hf, hc, h1, h2, by simpa using ‹¬ s.lastValid = false›, ‹_›, _, ‹_›, rfl⟩
        · cases h; exact .inr ⟨hf, hc, h1, rfl, .inr ⟨h2, .inr ‹_›⟩⟩
      · cases h

/-- No command touches the parameter, `BUSY` or the host's undelivered events. -/
theorem exec_frame {i : Instr} {s t : State} (h : exec i s = .next t) :
    t.config = s.config ∧ t.busy = s.busy ∧ t.port = s.port := by
  cases i with
  | nop => rw [execNop_cases h]; exact ⟨rfl, rfl, rfl⟩
  | cfg w => obtain ⟨-, rfl⟩ | ⟨-, -, rfl⟩ | ⟨-, -, rfl⟩ := execCfg_cases h <;> exact ⟨rfl, rfl, rfl⟩
  | push b =>
    obtain ⟨-, rfl⟩ | ⟨-, -, rfl⟩ | ⟨-, -, -, rfl⟩ | ⟨-, -, -, -, rfl⟩ | ⟨-, -, -, -, _, -, rfl⟩ |
      ⟨-, -, -, -, -, -, _, -, rfl⟩ | ⟨-, -, -, rfl, -⟩ := execPush_cases h <;> exact ⟨rfl, rfl, rfl⟩
  | srst => obtain ⟨-, rfl⟩ | ⟨-, rfl⟩ := execSrst_cases h <;> exact ⟨rfl, rfl, rfl⟩
  | ckinit => obtain ⟨-, rfl⟩ | ⟨-, rfl⟩ := execCkinit_cases h <;> exact ⟨rfl, rfl, rfl⟩
  | ckbyte b => obtain ⟨-, rfl⟩ | ⟨-, rfl⟩ := execCkbyte_cases h <;> exact ⟨rfl, rfl, rfl⟩
  | rdtab sel i => obtain ⟨-, rfl⟩ | ⟨-, rfl⟩ := execRdtab_cases h <;> exact ⟨rfl, rfl, rfl⟩
  | clrerr => obtain ⟨-, rfl⟩ | ⟨-, rfl⟩ := execClrerr_cases h <;> exact ⟨rfl, rfl, rfl⟩

/-- A word is a command or illegal (R49). -/
theorem execWord_cases {cmd : Word} {s t : State} (h : execWord cmd s = .next t) :
    (∃ i, decode cmd = .ok i ∧ exec i s = .next t) ∨ (∃ e, decode cmd = .error e ∧ execIllegal s = .next t) := by
  simp only [execWord] at h
  split at h
  · exact .inl ⟨_, ‹_›, h⟩
  · exact .inr ⟨_, ‹_›, h⟩

/-- What a step that answers a next state has done: nothing was sent, or it took a reset, or a command word (R10). -/
theorem step_cases {s t : State} (h : step s = .next t) :
    (s.port = [] ∧ s.busy = false ∧ t = s) ∨
    (∃ rest, s.port = .reset :: rest ∧ t = hardwareReset { s with port := rest }) ∨
    (∃ cmd rest, s.port = .command cmd :: rest ∧ s.busy = false ∧ execWord cmd { s with port := rest } = .next t) := by
  unfold step fetch at h
  rcases hp : s.port with _ | ⟨_ | _, rest⟩
  · cases hb : s.busy <;> simp only [hp, hb, if_true, if_false, Bool.false_eq_true] at h
    · cases h; exact .inl ⟨rfl, rfl, rfl⟩
    · cases h
  · cases hb : s.busy <;> simp only [hp, hb, if_true, if_false, Bool.false_eq_true] at h
    · exact .inr (.inr ⟨_, _, rfl, rfl, h⟩)
    · cases h
  · simp only [hp] at h
    cases h; exact .inr (.inl ⟨_, rfl, rfl⟩)

/-- `slotExists` as the bound it is (R11). -/
@[simp] theorem slotExists_iff (s : State) (slot : Nat) :
    s.slotExists slot = true ↔ slot < s.config.maxWindow.toNat := by simp [State.slotExists]

end Sys2Proof.Machine
end

