-- ==== Sys2Proof/Laws/PerInstr.lean ====
section
/-! SUPPORT. Facts of every command, one lemma per constructor. -/

namespace Sys2Proof.Laws

/-- Every operand fits its format's field (30_encoding.md R46): the types of the fields say so. -/
theorem Instr_wf (i : Instr) : i.wf = true := by
  cases i with
  | nop => rfl
  | cfg w => exact decide_eq_true w.isLt
  | push b => exact decide_eq_true b.isLt
  | srst => rfl
  | ckinit => rfl
  | ckbyte b => exact decide_eq_true b.isLt
  | rdtab sel i =>
    have hi : i.toNat < 256 := i.isLt
    cases sel
    · exact decide_eq_true (show i.toNat < 512 by omega)
    · exact decide_eq_true (show 256 + i.toNat < 512 by omega)
  | clrerr => rfl

/-- The word of a command belongs to the command's row of R48 (`(cmd & mask) = match`). -/
def RowMatch.Statement (i : Instr) : Prop := (encode i &&& i.row.mask) = i.row.pattern

namespace RowMatch

theorem nop : Statement .nop := rfl
theorem cfg (w : WindowSize) : Statement (.cfg w) := by
  simp only [Statement, encode, Instr.row, rowCfg]
  ext k hk
  interval_cases k <;> simp [BitVec.getLsbD_of_ge]
theorem push (b : Byte) : Statement (.push b) := by
  simp only [Statement, encode, Instr.row, rowPush]
  ext k hk
  interval_cases k <;> simp [BitVec.getLsbD_of_ge]
theorem srst : Statement .srst := rfl
theorem ckinit : Statement .ckinit := rfl
theorem ckbyte (b : Byte) : Statement (.ckbyte b) := by
  simp only [Statement, encode, Instr.row, rowCkbyte]
  ext k hk
  interval_cases k <;> simp [BitVec.getLsbD_of_ge]
theorem rdtab (sel : TableSel) (index : Byte) : Statement (.rdtab sel index) := by
  cases sel <;>
  · simp only [Statement, encode, Instr.row, rowRdtab]
    ext k hk
    interval_cases k <;> simp [BitVec.getLsbD_of_ge]
theorem clrerr : Statement .clrerr := rfl

end RowMatch

end Sys2Proof.Laws
end

