-- ==== Sys2Proof/Tests/Slice0.lean ====
section
/-! SUPPORT. The model's own tests: expected values are the spec's (95_test_vectors.md and the examples of the command rules), and
a witness for the hypotheses of every statement. -/

namespace Sys2Proof.Tests

open Sys2Proof Sys2Proof.Machine

/-- A field of the next state, if there is one. -/
def after {α : Type} (o : Result) (f : State → α) : Option α :=
  match o with
  | .next t => some (f t)
  | .fault _ => none
  | .refused _ => none

/-- A block just configured for a window, `MAX_WINDOW = 4096`. -/
def configured (w : WindowSize) : State := configure w State.reset

/-- 95_test_vectors.md PUSH-4 after step 3: `CFG 2`, `PUSH 'a'`, `PUSH 'b'`. -/
def windowAB : State :=
  { configured 2 with
    win := [(0, 0x61), (1, 0x62)], count := 2, lastOpen := 0x617CB792, lastValid := true, rvalid := true,
    result := 0x9E83486D }

/-- A block with something at its port. -/
def sent (s : State) (e : PortEvent) : State := { s with port := [e] }

/-! ### Decoding: words written out from the encodings of R46 and R48 -/

theorem test_decode_nop : decode 0b0000_0000_0000_0000_0000_0000_0000_0000 = .ok .nop := by decide
theorem test_decode_cfg : decode 0b0001_0000_0000_0000_0001_0000_0000_0000 = .ok (.cfg 4096) := by decide
theorem test_decode_push : decode 0b0010_0000_0000_0000_0000_0000_0110_1100 = .ok (.push 0x6C) := by decide
theorem test_decode_srst : decode 0b0011_0000_0000_0000_0000_0000_0000_0000 = .ok .srst := by decide
theorem test_decode_ckinit : decode 0b0100_0000_0000_0000_0000_0000_0000_0000 = .ok .ckinit := by decide
theorem test_decode_ckbyte : decode 0b0101_0000_0000_0000_0000_0000_1111_1111 = .ok (.ckbyte 0xFF) := by decide
theorem test_decode_rdtab_base : decode 0b0110_0000_0000_0000_0000_0000_0000_0001 = .ok (.rdtab .base 1) := by decide
theorem test_decode_rdtab_roll : decode 0b0110_0000_0000_0000_0000_0001_0110_0001 = .ok (.rdtab .roll 0x61) := by decide
theorem test_decode_clrerr : decode 0b0111_0000_0000_0000_0000_0000_0000_0000 = .ok .clrerr := by decide

/-- The illegal words of ILL-1 (95_test_vectors.md §4.6). -/
theorem test_decode_illegal :
    [0x00000001, 0x01000000, 0x11000000, 0x1F000000, 0x20000100, 0x28000000, 0x30000001, 0x40000001, 0x50000100,
      0x60000200, 0x70000001, 0x80000000, 0xF0000000, 0xFFFFFFFF].all
      (fun cmd : Word => match decode cmd with | .ok _ => false | .error _ => true) = true := by decide

/-- The table's words are read whole: an operand word of zeros above `nbits`. -/
theorem test_decodeTableWord : decodeTableWord 32 0x2000006F = some (.push 0x6F) ∧ decodeTableWord 8 0x2000006F = none ∧
    decodeTableWord 40 0x120000000 = none := by decide

/-! ### Well-formedness: each check refuses an ill-formed line (R51) -/

theorem test_wf_cfg : (AsmLine.cfg 0x1000000).wf = false ∧ (AsmLine.cfg 0xFFFFFF).wf = true := by decide
theorem test_wf_push : (AsmLine.push 256).wf = false ∧ (AsmLine.push 255).wf = true := by decide
theorem test_wf_ckbyte : (AsmLine.ckbyte 256).wf = false ∧ (AsmLine.ckbyte 255).wf = true := by decide
theorem test_wf_rdtab : (AsmLine.rdtab .roll 256).wf = false ∧ (AsmLine.rdtab .base 255).wf = true := by decide
theorem test_wf_word : (AsmLine.word 0x100000000).wf = false ∧ (AsmLine.word 0xFFFFFFFF).wf = true := by decide
theorem test_wf_cfgnew : (AsmLine.cfgnew 0x1000000).wf = false ∧ (AsmLine.cfgnew 0).wf = true := by decide

/-- A command's operand fits its field (R46); nothing else can be written down, so the check refuses no term. -/
theorem test_wf_instr : (Instr.cfg 0xFFFFFF).wf = true := by decide

/-! ### Assembler text (R51, program P3 of 95_test_vectors.md) -/

theorem test_assembler_text :
    (parseProgram "PUSH 'a' ; comment\n.word 0x11000000\nRDTAB ROLL, 0x61\nREAD CKRESULT\nCKSUM \"a\"").bind assemble =
      some [.write 0x20000061, .write 0x11000000, .write 0x60000161, .read 0x04, .write 0x40000000, .write 0x50000061] := by
  decide +kernel

theorem test_assembler_refuses : (parseProgram "PUSH 256").bind assemble = none := by decide +kernel

/-! ### CRC values (95_test_vectors.md §2, §3) -/

/-- Four rows of the table of §2.1. -/
theorem test_base_rows :
    [0x00, 0x01, 0x02, 0x03, 0x04, 0x05, 0x06, 0x07].map Crc.baseEntry =
      [0x00000000, 0x77073096, 0xEE0E612C, 0x990951BA, 0x076DC419, 0x706AF48F, 0xE963A535, 0x9E6495A3] ∧
    [0x78, 0x79, 0x7A, 0x7B, 0x7C, 0x7D, 0x7E, 0x7F].map Crc.baseEntry =
      [0x5EDEF90E, 0x29D9C998, 0xB0D09822, 0xC7D7A8B4, 0x59B33D17, 0x2EB40D81, 0xB7BD5C3B, 0xC0BA6CAD] ∧
    [0x80, 0x81, 0x82, 0x83, 0x84, 0x85, 0x86, 0x87].map Crc.baseEntry =
      [0xEDB88320, 0x9ABFB3B6, 0x03B6E20C, 0x74B1D29A, 0xEAD54739, 0x9DD277AF, 0x04DB2615, 0x73DC1683] ∧
    [0xF8, 0xF9, 0xFA, 0xFB, 0xFC, 0xFD, 0xFE, 0xFF].map Crc.baseEntry =
      [0xB3667A2E, 0xC4614AB8, 0x5D681B02, 0x2A6F2B94, 0xB40BBE37, 0xC30C8EA1, 0x5A05DF1B, 0x2D02EF8D] := by decide +kernel

/-- The rows `w = 1, 4, 32` of §2.2. -/
theorem test_roll_entries :
    [0x00, 0x01, 0x6C, 0x6F, 0x80, 0xFF].map (Crc.rollEntry 1) =
      [0x93DBFD72, 0x8AC0CC33, 0x5A93D9D9, 0x71BE8A1A, 0xA8586539, 0x00FF0000] ∧
    [0x00, 0x01, 0x6C, 0x6F, 0x80, 0xFF].map (Crc.rollEntry 4) =
      [0xE7662801, 0xDA0601B1, 0xBBA4B24D, 0xFC04C89D, 0x56809893, 0x2D02EF8D] ∧
    [0x00, 0x01, 0x6C, 0x6F, 0x80, 0xFF].map (Crc.rollEntry 32) =
      [0x63766F20, 0x5584FFD3, 0x6D70AE5A, 0x36671F4F, 0x1B9B6DF5, 0x97411E28] := by decide +kernel

/-- Rows of §3.3. -/
theorem test_checksum : Crc.checksum [0x6C, 0x6C, 0x6C, 0x6C] = 0x9C35AC3B ∧ Crc.checksum [0xFF, 0xFF, 0xFF, 0xFF] = 0xFFFFFFFF ∧
    Crc.checksum [0x00] = 0xD202EF8D := by decide +kernel

/-! ### One command each (95_test_vectors.md §4) -/

/-- CLR-1 step 1: `NOP` changes nothing. -/
theorem test_nop : exec .nop windowAB = .next windowAB := rfl

/-- CFG-1 step 1, with the spot value of R62, and step 11. -/
theorem test_cfg : after (exec (.cfg 4) State.reset) (fun t => (t.status, t.wsize, t.rollRead 0x6C)) =
    some (0x00000004, 4, 0xBBA4B24D) := by decide +kernel
theorem test_cfg_too_large : after (exec (.cfg 4097) (configured 4096)) (fun t => (t.status, t.wsize)) =
    some (0x00000024, 4096) := by decide +kernel

/-- PUSH-2 step 2 (First-Full with `w = 1`) and PUSH-4 step 4 (Rolling). -/
theorem test_push_first_full : after (exec (.push 0x61) (configured 1)) (fun t => (t.status, t.result, t.rpos, t.win)) =
    some (0x00000009, 0xE8B7BE43, 0, [(0, 0x61)]) := by decide +kernel
theorem test_push_rolling : after (exec (.push 0x61) windowAB) (fun t => (t.result, t.rpos, t.count, t.cursor, t.lastOpen)) =
    some (0x2CA74A14, 1, 3, 1, 0xD358B5EB) := by decide +kernel

/-- SRST-1 step 1: the context stays, the stream goes. -/
theorem test_srst : after (exec .srst windowAB) (fun t => (t.status, t.wsize, t.result, t.win)) =
    some (0x00000004, 2, 0x00000000, []) := by decide +kernel

/-- CK-1 step 2, from a state with another accumulator. -/
theorem test_ckinit : after (exec .ckinit { State.reset with ckacc := 5 }) (fun t => readPort t 0x04) = some 0x00000000 := by
  decide +kernel

/-- CK-1 step 1. -/
theorem test_ckbyte : after (exec (.ckbyte 0x61) State.reset) (fun t => (t.ckacc, readPort t 0x04)) =
    some (0x174841BC, 0xE8B7BE43) := by decide +kernel

/-- RDTAB-1 steps 4 and 11. -/
theorem test_rdtab_base : after (exec (.rdtab .base 0x01) State.reset) State.tdata = some 0x77073096 := by decide +kernel
theorem test_rdtab_roll : after (exec (.rdtab .roll 0x61) (configured 1)) State.tdata = some 0xEF3DA794 := by decide +kernel

/-- CLR-1 step 2: `ERR_COUNT` stays. -/
theorem test_clrerr :
    after (exec .clrerr { windowAB with errIllegal := true, errWsize := true, errCount := true }) State.status =
      some 0x00000049 := by decide +kernel

/-- ILL-1 and PUSH-8: an illegal word sets its flag; in the fault state it does nothing. -/
theorem test_illegal : after (step (sent (configured 2) (.command 0x20000100))) State.status = some 0x00000014 := by
  decide +kernel
theorem test_fatal : after (step (sent { State.reset with errFatal := true } (.command 0x70000000))) State.status =
    some 0x00000080 := by decide +kernel

/-- RST-1. -/
theorem test_reset : after (step (sent windowAB .reset)) (fun t => (t.status, t.wsize, t.win, t.rollRead 0x6C)) =
    some (0x00000000, 0, [], 0x00000000) := by decide +kernel

/-- The word put at the port is the next command. -/
theorem test_withFetchWord : after (step (State.reset.withFetchWord 32 0x50000061)) State.ckacc = some 0x174841BC := by
  decide +kernel

/-- The machine as the host runs it. -/
theorem test_core_idle : Sys2Proof.core.step Sys2Proof.core.reset = .next State.reset := rfl

/-! ### Witnesses: states and operands that meet the hypotheses of each statement -/

theorem reset_inv : State.reset.Inv := by
  refine ⟨by decide, by decide, rfl, by decide, by decide, by decide, by decide, rfl, rfl, rfl⟩

theorem reset_crcInv : State.reset.CrcInv := by decide

theorem configured_inv : (configured 2).Inv := by
  refine ⟨by decide, by decide, rfl, by decide, by decide, by decide, by decide, rfl, rfl, rfl⟩

/-- The smallest and the largest window. -/
theorem configured_inv_bounds : (configured 1).Inv ∧ (configured 4096).Inv := by
  refine ⟨⟨by decide, by decide, rfl, by decide, by decide, by decide, by decide, rfl, rfl, rfl⟩,
    ⟨by decide, by decide, rfl, by decide, by decide, by decide, by decide, rfl, rfl, rfl⟩⟩

theorem windowAB_inv : windowAB.Inv := by
  refine ⟨by decide, by decide, rfl, by decide, by decide, by decide, by decide, rfl, rfl, rfl⟩

theorem windowAB_crcInv : windowAB.CrcInv := by decide +kernel

/-- `MAX_WINDOW = 1`, the least valid parameter. -/
theorem witness_ResetStateMeetsTheInvariants : (Config.mk 1).valid := by decide

theorem witness_DecodedWordIsTheEncodingOfItsCommand : decode 0x6000016C = .ok (.rdtab .roll 0x6C) := by decide

theorem witness_AtMostOneOpcodeRowMatches : rowPush ∈ opcodeTable ∧ rowPush.matches 0x200000FF = true := by decide

theorem witness_StepRunsTheDecodedCommand :
    (sent windowAB (.command 0x20000061)).busy = false ∧
    (sent windowAB (.command 0x20000061)).port = .command 0x20000061 :: [] ∧ decode 0x20000061 = .ok (.push 0x61) := by
  decide

theorem witness_IllegalWordSetsOnlyErrIllegal :
    (sent windowAB (.command 0xFFFFFFFF)).busy = false ∧ (sent windowAB (.command 0xFFFFFFFF)).errFatal = false ∧
    (sent windowAB (.command 0xFFFFFFFF)).port = .command 0xFFFFFFFF :: [] ∧
    decode 0xFFFFFFFF = .error .reservedOpcode := by decide

theorem witness_FatalBlockIgnoresEveryWordUntilReset :
    ({ sent windowAB (.command 0) with errFatal := true }).busy = false ∧
    ({ sent windowAB (.command 0) with errFatal := true }).errFatal = true ∧
    ({ sent windowAB (.command 0) with errFatal := true }).port = .command 0 :: [] ∧
    ({ sent windowAB .reset with errFatal := true }).port = .reset :: [] := by decide

theorem witness_HardwareResetGivesTheResetValues :
    ({ sent windowAB .reset with busy := true }).port = .reset :: [] ∧
    ∃ u, exec (.push 0x61) { sent windowAB .reset with port := [] } = .next u := ⟨by decide, _, rfl⟩

theorem witness_IdleBlockHoldsItsState : windowAB.busy = false ∧ windowAB.port = [] := by decide

theorem witness_BusyBlockTakesNoCommand :
    ({ sent windowAB (.command 0) with busy := true }).busy = true ∧
    ({ sent windowAB (.command 0) with busy := true }).port = .command 0 :: [] ∧
    ({ windowAB with busy := true }).busy = true ∧ ({ windowAB with busy := true }).port = [] := by decide

/-- The encoding clauses of the seven command statements: a word with its reserved bits 0, and one with one of them 1. -/
theorem witness_encoding_clauses :
    (opField 0x00000000 = 0 ∧ opField 0x00000001 = 0 ∧ (0x00000001 : Word).extractLsb' 0 28 ≠ 0) ∧
    (opField 0x70000000 = 7 ∧ opField 0x70000001 = 7 ∧ (0x70000001 : Word).extractLsb' 0 28 ≠ 0) ∧
    (opField 0x40000000 = 4 ∧ opField 0x48000000 = 4 ∧ (0x48000000 : Word).extractLsb' 0 28 ≠ 0) ∧
    (opField 0x30000000 = 3 ∧ opField 0x30000001 = 3 ∧ (0x30000001 : Word).extractLsb' 0 28 ≠ 0) ∧
    (opField 0x500000FF = 5 ∧ (0x500000FF : Word).extractLsb' 8 20 = 0 ∧ (0x50000100 : Word).extractLsb' 8 20 ≠ 0) ∧
    (opField 0x600001FF = 6 ∧ (0x600001FF : Word).extractLsb' 9 19 = 0 ∧ (0x60000200 : Word).extractLsb' 9 19 ≠ 0) ∧
    (opField 0x10FFFFFF = 1 ∧ (0x10FFFFFF : Word).extractLsb' 24 4 = 0 ∧ (0x11000000 : Word).extractLsb' 24 4 ≠ 0) := by
  decide

/-- Of `ClrerrClearsTheRecoverableFlags`, `CkinitSeedsTheFold`, `CkbyteFoldsOneByte`, `SrstStartsAFreshStream` and the first two
clauses of `RdtabReadsTheSelectedTable`. -/
theorem witness_command_on_a_live_block : windowAB.errFatal = false ∧ windowAB.busy = false := by decide

/-- The third clause of `RdtabReadsTheSelectedTable`. -/
theorem witness_RdtabReadsTheSelectedTable : State.reset.errFatal = false ∧ State.reset.Inv ∧ State.reset.wsize = 0 :=
  ⟨rfl, reset_inv, rfl⟩

/-- At the boundary: `W = MAX_WINDOW` and `W = MAX_WINDOW + 1`; and `W = 0`. -/
theorem witness_CfgConfiguresOrRefuses :
    windowAB.errFatal = false ∧ (4096 : WindowSize).toNat ≤ windowAB.config.maxWindow.toNat ∧
    (0 : WindowSize).toNat ≤ windowAB.config.maxWindow.toNat ∧
    windowAB.config.maxWindow.toNat < (4097 : WindowSize).toNat := by decide

/-- The state of PUSH-6. -/
theorem witness_PushIsRefusedAtTheCountLimit :
    ({ windowAB with count := 0xFFFFFFFFFFFFFFFF }).errFatal = false ∧
    ({ windowAB with count := 0xFFFFFFFFFFFFFFFF }).count.toNat = 2 ^ 64 - 1 := by decide

/-- At the last count accepted, and at 0. -/
theorem witness_PushInTheZeroWindowOnlyCounts :
    ({ State.reset with count := 0xFFFFFFFFFFFFFFFE }).errFatal = false ∧
    ({ State.reset with count := 0xFFFFFFFFFFFFFFFE }).count.toNat < 2 ^ 64 - 1 ∧
    ({ State.reset with count := 0xFFFFFFFFFFFFFFFE }).wsize = 0 ∧ State.reset.count.toNat < 2 ^ 64 - 1 := by decide

/-- The first Filling push, and the last (`n = w - 1`) of the largest window. -/
theorem witness_PushWhileFillingStoresTheByte :
    (configured 2).errFatal = false ∧ (configured 2).count.toNat + 1 < (configured 2).wsize.toNat ∧
    (configured 2).wsize.toNat ≤ (configured 2).config.maxWindow.toNat ∧
    ({ configured 4096 with count := 4094 }).count.toNat + 1 < (configured 4096).wsize.toNat ∧
    (configured 4096).wsize.toNat ≤ (configured 4096).config.maxWindow.toNat := by decide

/-- With `w = 1` (no Filling push) and with `w = 2`. -/
theorem witness_PushCompletingTheWindowReportsItsChecksum :
    (configured 1).errFatal = false ∧ (configured 1).count.toNat + 1 = (configured 1).wsize.toNat ∧
    (configured 1).wsize.toNat ≤ (configured 1).config.maxWindow.toNat ∧
    (configured 1).win.readSlots (List.range ((configured 1).wsize.toNat - 1)) = some [] ∧
    ({ configured 2 with win := [(0, 0x61)], count := 1 }).count.toNat + 1 = (configured 2).wsize.toNat ∧
    Memory.readSlots [(0, 0x61)] (List.range ((configured 2).wsize.toNat - 1)) = some [0x61] := by decide

/-- The first Rolling push, and one at the last count accepted. -/
theorem witness_RollingPushEvictsTheOldestByte :
    windowAB.errFatal = false ∧ windowAB.count.toNat < 2 ^ 64 - 1 ∧ 1 ≤ windowAB.wsize.toNat ∧
    windowAB.wsize.toNat ≤ windowAB.count.toNat ∧ windowAB.lastValid = true ∧
    windowAB.cursor.toNat < windowAB.config.maxWindow.toNat ∧ windowAB.win.read windowAB.cursor.toNat = some 0x61 ∧
    ({ windowAB with count := 0xFFFFFFFFFFFFFFFE }).count.toNat < 2 ^ 64 - 1 ∧
    windowAB.wsize.toNat ≤ ({ windowAB with count := 0xFFFFFFFFFFFFFFFE }).count.toNat := by decide

/-- One state for each clause: slot 0 lost before the second byte, no stored CRC, the slot at the cursor lost. -/
theorem witness_BreachSetsOnlyErrFatal :
    ({ configured 2 with count := 1 }).errFatal = false ∧ ({ configured 2 with count := 1 }).count.toNat < 2 ^ 64 - 1 ∧
    1 ≤ (configured 2).wsize.toNat ∧ (configured 2).wsize.toNat ≤ (configured 2).config.maxWindow.toNat ∧
    ({ configured 2 with count := 1 }).count.toNat + 1 = (configured 2).wsize.toNat ∧
    (∃ slot : Nat, slot < (configured 2).wsize.toNat - 1 ∧ (configured 2).win.read slot = none) ∧
    (windowAB.wsize.toNat ≤ windowAB.count.toNat ∧ ({ windowAB with lastValid := false }).lastValid = false) ∧
    (windowAB.lastValid = true ∧ windowAB.cursor.toNat < windowAB.config.maxWindow.toNat ∧
      ({ windowAB with win := [(1, 0x62)] }).win.read windowAB.cursor.toNat = none) := by
  refine ⟨rfl, by decide, by decide, by decide, rfl, ⟨0, by decide, rfl⟩, by decide, by decide⟩

/-- A window beyond `MAX_WINDOW`, and a cursor beyond it: states no run reaches. -/
theorem witness_PushAtAnAbsentSlotFaults :
    ({ configured 5000 with count := 4096 }).errFatal = false ∧
    ({ configured 5000 with count := 4096 }).count.toNat < 2 ^ 64 - 1 ∧
    ({ configured 5000 with count := 4096 }).count.toNat < (configured 5000).wsize.toNat ∧
    (configured 5000).config.maxWindow.toNat ≤ ({ configured 5000 with count := 4096 }).count.toNat ∧
    (1 ≤ windowAB.wsize.toNat ∧ windowAB.wsize.toNat ≤ windowAB.count.toNat ∧ windowAB.lastValid = true ∧
      windowAB.config.maxWindow.toNat ≤ ({ windowAB with cursor := 4096 }).cursor.toNat) := by decide

/-- Of `PushFrame`, with the conditions of its clauses: a Filling and a Rolling push that answer next states. -/
theorem witness_PushFrame :
    (∃ t, exec (.push 0x61) (configured 2) = .next t) ∧ (∃ t, exec (.push 0x61) windowAB = .next t) ∧
    (configured 2).count.toNat + 1 < (configured 2).wsize.toNat ∧ State.reset.wsize = 0 := by
  refine ⟨⟨_, rfl⟩, ⟨_, rfl⟩, by decide, rfl⟩

/-- Of `OnlyAcceptedCfgChangesTheContext`, with a `CFG` just beyond `MAX_WINDOW`. -/
theorem witness_OnlyAcceptedCfgChangesTheContext :
    (∃ t, execWord 0x10001001 windowAB = .next t) ∧
    (∀ w : WindowSize, decode 0x10001001 = .ok (.cfg w) → windowAB.config.maxWindow.toNat < w.toNat) := by
  refine ⟨⟨_, rfl⟩, fun w h => ?_⟩
  have : w = 4097 := by
    have h' : decode 0x10001001 = .ok (.cfg 4097) := by decide
    rw [h'] at h; cases h; rfl
  subst this; decide

/-- Of `FoldAndTableRegistersHaveTheirOwnWriters` and `CommandsOutsideTheStreamLeaveItAlone`: an illegal word and `CLRERR`. -/
theorem witness_words_outside_the_stream :
    (∃ t, execWord 0x80000000 windowAB = .next t) ∧ pushedByte 0x80000000 = none ∧
    startsStream windowAB.config 0x80000000 = false ∧ (∃ t, execWord 0x70000000 windowAB = .next t) ∧
    pushedByte 0x70000000 = none ∧ startsStream windowAB.config 0x70000000 = false := by
  refine ⟨⟨_, rfl⟩, by decide, by decide, ⟨_, rfl⟩, by decide, by decide⟩

theorem witness_FoldAndTableRegistersHaveTheirOwnWriters :
    (∃ t, execWord 0x20000061 windowAB = .next t) ∧ (∀ b : Byte, decode 0x20000061 ≠ .ok (.ckbyte b)) ∧
    decode 0x20000061 ≠ .ok .ckinit ∧ (∀ (sel : TableSel) (i : Byte), decode 0x20000061 ≠ .ok (.rdtab sel i)) := by
  have h : decode 0x20000061 = .ok (.push 0x61) := by decide
  refine ⟨⟨_, rfl⟩, ?_, ?_, ?_⟩
  · intro b hb; rw [h] at hb; cases hb
  · intro hb; rw [h] at hb; cases hb
  · intro sel i hb; rw [h] at hb; cases hb

theorem witness_StickyFlagsAreSetAndClearedAsR26Says :
    windowAB.errFatal = false ∧ ∃ t, execWord 0x80000000 windowAB = .next t := ⟨rfl, _, rfl⟩

/-- The three breaches of its `ERR_FATAL` clause, each with a next state, and a First-Full push with no breach. -/
theorem witness_breaches :
    after (execWord 0x20000061 { configured 2 with count := 1 }) State.errFatal = some true ∧
    after (execWord 0x20000061 { windowAB with lastValid := false }) State.errFatal = some true ∧
    after (execWord 0x20000061 { windowAB with win := [(1, 0x62)] }) State.errFatal = some true ∧
    after (execWord 0x20000061 (configured 1)) State.errFatal = some false := by decide +kernel

/-- The causes of the first three clauses of `ErroneousCommandChangesOnlyItsFlag`. -/
theorem witness_error_causes :
    decode 0x80000000 = .error .reservedOpcode ∧ decode 0x10001001 = .ok (.cfg 4097) ∧
    windowAB.config.maxWindow.toNat < (4097 : WindowSize).toNat ∧ decode 0x20000061 = .ok (.push 0x61) ∧
    ({ windowAB with count := 0xFFFFFFFFFFFFFFFF }).count.toNat = 2 ^ 64 - 1 := by decide

/-- Each of the four errors newly raised. -/
theorem witness_ErroneousCommandChangesOnlyItsFlag :
    after (execWord 0x80000000 windowAB) State.errIllegal = some true ∧
    after (execWord 0x10001001 windowAB) State.errWsize = some true ∧
    after (execWord 0x20000061 { windowAB with count := 0xFFFFFFFFFFFFFFFF }) State.errCount = some true ∧
    after (execWord 0x20000061 { windowAB with lastValid := false }) State.errFatal = some true ∧
    windowAB.errIllegal = false ∧ windowAB.errWsize = false ∧ windowAB.errCount = false ∧ windowAB.errFatal = false := by
  decide +kernel

theorem witness_ZeroWindowIsAbsorbing :
    State.reset.wsize = 0 ∧ (∃ t, execWord 0x20000061 State.reset = .next t) ∧ State.reset.errFatal = false ∧
    State.reset.count.toNat < 2 ^ 64 - 1 ∧ pushedByte 0x20000061 ≠ none ∧
    (∃ t, execWord 0x10000001 State.reset = .next t ∧ t.wsize ≠ 0) := by
  refine ⟨rfl, ⟨_, rfl⟩, rfl, by decide, by decide, ⟨_, rfl, by decide⟩⟩

/-- One state for each phase: the count at `w - 1` and at `w`. -/
theorem witness_PhaseFollowsCountAgainstWindowSize :
    State.reset.wsize.toNat = 0 ∧
    (1 ≤ windowAB.wsize.toNat ∧ ({ windowAB with count := 1 }).count.toNat < windowAB.wsize.toNat) ∧
    (windowAB.wsize.toNat ≤ windowAB.count.toNat) ∧ windowAB.Inv ∧ windowAB.phase = .full := by
  refine ⟨by decide, by decide, by decide, windowAB_inv, by decide⟩

/-- At the first and the last reserved number. -/
theorem witness_ReadPortMapIsThatOfR30 :
    windowAB.busy = false ∧ 0x0B ≤ (0x0B : RegNumber).toNat ∧ 0x0B ≤ (0xFF : RegNumber).toNat := by decide

theorem witness_CrcAlgebraLaws : ([0x61, 0x62] : List Byte).length = ([0x77, 0x78] : List Byte).length := by decide

/-- Of the premise on `upd(., 0)` of `RollEntryForms`, and at `w = 1`. -/
theorem witness_RollEntryForms : Crc.upd 5 0 = Crc.upd 5 0 ∧ 1 ≤ 1 := ⟨rfl, Nat.le_refl 1⟩

/-- At `w = 1`, where `M` is empty. -/
theorem witness_RollingTableMeetsItsContract : 1 ≤ 1 ∧ ([] : List Byte).length = 1 - 1 := by decide

/-- Of `StepKeepsTheInvariants`, `StepKeepsTheReportedChecksumRight` and `EveryCommandCompletes`: a Rolling push in a full window. -/
theorem witness_StepKeepsTheInvariants :
    (sent windowAB (.command 0x20000061)).Inv ∧ (sent windowAB (.command 0x20000061)).CrcInv ∧
    ∃ t, step (sent windowAB (.command 0x20000061)) = .next t := ⟨windowAB_inv, windowAB_crcInv, _, rfl⟩

/-- Of `ReachableStatesMeetR31` and `NoReachablePushBreaches`: reset, and a `CFG 1` from there. -/
theorem witness_Reachable : Reachable State.reset ∧ Reachable (configured 1) := by
  have h : Reachable State.reset := .reset Config.reference (by decide)
  exact ⟨h, .step _ _ (.deliver _ (.command 0x10000001) h) rfl⟩

/-- Two pushes and an illegal word between them, into a window of 2. -/
theorem witness_RollingEqualsRecompute :
    (configured 2).Inv ∧ (configured 2).count = 0 ∧ 1 ≤ (configured 2).wsize.toNat ∧
    (∀ cmd ∈ ([0x20000061, 0x80000000, 0x20000062] : List Word), startsStream (configured 2).config cmd = false) ∧
    [0x61, 0x62] = (([0x20000061, 0x80000000, 0x20000062] : List Word).filterMap pushedByte).take (2 ^ 64 - 1) ∧
    (configured 2).wsize.toNat ≤ ([0x61, 0x62] : List Byte).length := by
  have h : ([0x20000061, 0x80000000, 0x20000062] : List Word).filterMap pushedByte = [0x61, 0x62] := by decide
  refine ⟨configured_inv, rfl, by decide, ?_, ?_, Nat.le_refl 2⟩
  · show ∀ cmd ∈ ([0x20000061, 0x80000000, 0x20000062] : List Word), startsStream Config.reference cmd = false
    intro cmd hc
    simp only [List.mem_cons, List.not_mem_nil, or_false] at hc
    rcases hc with rfl | rfl | rfl
    all_goals decide
  · rw [h, List.take_of_length_le (by norm_num)]

/-- HOST-1 of 95_test_vectors.md §4.7: `w = 2` over `"abc"`. -/
theorem witness_ChecksumStreamEmitsEveryWindow :
    (configured 2).Inv ∧ (configured 2).port = [] ∧ (configured 2).count = 0 ∧
    ([0x61, 0x62, 0x63] : List Byte).length < 2 ^ 64 := ⟨configured_inv, rfl, rfl, by decide⟩

theorem test_checksumStream :
    (match checksumStream [0x61, 0x62, 0x63] (configured 2) with
      | .next (_, pairs) => some pairs
      | _ => none) = some [(0, 0x9E83486D), (1, 0xC2A92B38)] := by decide +kernel

theorem witness_ErrorItemsPassThrough :
    ∃ t out, checksumResultStream ([.byte 0x61] : List (Item Bool)) (configured 2) = .next (t, out) ∧
      (∃ u out', checksumResultStream ([.byte 0x62] : List (Item Bool)) t = .next (u, out')) ∧
      ∃ v pairs, checksumStream [0x61] (configured 2) = .next (v, pairs) := by
  refine ⟨_, _, rfl, ⟨_, _, rfl⟩, _, _, rfl⟩

/-- CK-1 steps 13 to 16: a fold with pushes in between. -/
theorem witness_FoldUnitComputesTheChecksum :
    (configured 2).Inv ∧ ∀ cmd ∈ ([0x5000007A, 0x2000006C] : List Word), decode cmd ≠ .ok .ckinit := by
  refine ⟨configured_inv, ?_⟩
  intro cmd h
  simp only [List.mem_cons, List.not_mem_nil, or_false] at h
  rcases h with rfl | rfl
  · rw [show decode 0x5000007A = .ok (.ckbyte 0x7A) by decide]; exact fun hc => by cases hc
  · rw [show decode 0x2000006C = .ok (.push 0x6C) by decide]; exact fun hc => by cases hc

/-- The boot order of R104 with `CFG 4`: the reads of `STATUS`, `MAXWIN` and `STATUS`. -/
theorem test_boot : (match hostRun (bootProgram 4) windowAB with
      | .next (_, values) => some values
      | _ => none) = some [0x00000000, 0x00001000, 0x00000004] := by decide +kernel

end Sys2Proof.Tests
end

section
/-! PROOFS. How a step takes a command word from the port (00_scope.md R10, 20_memory.md R41, 30_encoding.md R49). -/

namespace Sys2Proof.Machine

/-- A ready block takes a command word that is the oldest event, and the event leaves the port (R41). -/
theorem fetch_of_command {s : State} {cmd : Word} {rest : List PortEvent} (hbusy : s.busy = false)
    (hport : s.port = .command cmd :: rest) : fetch s = .command cmd { s with port := rest } := by
  simp [fetch, hport, hbusy]

/-- The step of a ready block at a command word carries that word out (R10). -/
theorem step_of_command {s : State} {cmd : Word} {rest : List PortEvent} (hbusy : s.busy = false)
    (hport : s.port = .command cmd :: rest) : step s = execWord cmd { s with port := rest } := by
  simp only [step, fetch_of_command hbusy hport]

/-- A legal word is carried out as the command it encodes (R49). -/
theorem execWord_of_decode_ok {cmd : Word} {i : Instr} (hdecode : decode cmd = .ok i) (s : State) :
    execWord cmd s = exec i s := by
  simp only [execWord, hdecode]

/-- Settles O8: a ready block fetches the word, and a word that decodes is carried out as its command. -/
theorem stepRunsTheDecodedCommand : Obligations.StepRunsTheDecodedCommand := by
  intro s cmd rest i hbusy hport hdecode
  calc step s = execWord cmd { s with port := rest } := step_of_command hbusy hport
    _ = exec i { s with port := rest } := execWord_of_decode_ok hdecode _

end Sys2Proof.Machine
end

section
/-! PROOFS. The CRC functions are linear over XOR (40_crc_tables.md R60), and the rolling table's contract follows (R61, R63). -/

namespace Sys2Proof.Machine.Crc

/-- R60, L1. -/
theorem baseEntry_xor (x y : Byte) : baseEntry (x ^^^ y) = baseEntry x ^^^ baseEntry y := by
  simp only [baseEntry, BitVec.setWidth_xor, shiftSteps_xor]

/-- One byte on a XOR of seeds: the second seed goes through a zero byte (R60, L4). -/
theorem upd_xor (a b : Crc) (c : Byte) : upd (a ^^^ b) c = upd a c ^^^ upd b 0 := by
  have hindex : (a ^^^ b ^^^ c.setWidth 32).setWidth 8 =
      (a ^^^ c.setWidth 32).setWidth 8 ^^^ (b ^^^ (0 : Byte).setWidth 32).setWidth 8 := by
    rw [← BitVec.setWidth_xor]; congr 1; simp; ac_rfl
  simp only [upd, hindex, baseEntry_xor, BitVec.ushiftRight_xor_distrib]
  ac_rfl

/-- A fold from a XOR of seeds: the second seed goes through as many zero bytes (R60). -/
theorem fold_xor (m : List Byte) (a b : Crc) : fold (a ^^^ b) m = fold a m ^^^ zeroBytes m.length b := by
  induction m generalizing a b with
  | nil => rfl
  | cons c m ih => rw [fold_cons, upd_xor, ih]; rfl

/-- R60, L5. -/
theorem zeroBytes_xor (n : Nat) (a b : Crc) : zeroBytes n (a ^^^ b) = zeroBytes n a ^^^ zeroBytes n b := by
  simpa only [zeroBytes, zeros_length] using fold_xor (zeros n) a b

/-- Form (a) of the rolling entry (R61). -/
theorem rollEntry_eq_zeroBytes (w : Nat) (x : Byte) :
    rollEntry w x = zeroBytes w (upd Config.init x ^^^ Config.init) :=
  (zeroBytes_xor w _ _).symm

/-- The contract of the rolling table (R63): one more byte on the window and the entry of the oldest one take that one out. -/
theorem upd_fold_xor_rollEntry (x n : Byte) (m : List Byte) :
    upd (fold Config.init (x :: m)) n ^^^ rollEntry (m.length + 1) x = fold Config.init (m ++ [n]) := by
  have hseed : upd Config.init x = Config.init ^^^ (upd Config.init x ^^^ Config.init) := by
    rw [BitVec.xor_comm, BitVec.xor_assoc, BitVec.xor_self, BitVec.xor_zero]
  calc upd (fold Config.init (x :: m)) n ^^^ rollEntry (m.length + 1) x
      = fold (Config.init ^^^ (upd Config.init x ^^^ Config.init)) (m ++ [n]) ^^^ rollEntry (m.length + 1) x := by
        rw [← hseed, fold_snoc, fold_cons]
    _ = fold Config.init (m ++ [n]) ^^^ rollEntry (m.length + 1) x ^^^ rollEntry (m.length + 1) x := by
        rw [fold_xor, rollEntry_eq_zeroBytes, List.length_append, List.length_singleton]
    _ = fold Config.init (m ++ [n]) := by rw [BitVec.xor_assoc, BitVec.xor_self, BitVec.xor_zero]

end Sys2Proof.Machine.Crc
end

section
/-! PROOFS. What `PUSH` leaves alone, and when the window it stores to does not read (42_engine.md R72). -/

namespace Sys2Proof.Machine

/-- The registers outside the stream, which no `PUSH` writes. -/
theorem execPush_frame {b : Byte} {s t : State} (h : execPush b s = .next t) :
    t.config = s.config ∧ t.wsize = s.wsize ∧ t.roll = s.roll ∧ t.ckacc = s.ckacc ∧ t.tdata = s.tdata ∧
    t.errIllegal = s.errIllegal ∧ t.errWsize = s.errWsize ∧ t.busy = s.busy := by
  obtain ⟨-, rfl⟩ | ⟨-, -, rfl⟩ | ⟨-, -, -, rfl⟩ | ⟨-, -, -, -, rfl⟩ | ⟨-, -, -, -, _, -, rfl⟩ |
    ⟨-, -, -, -, -, -, _, -, rfl⟩ | ⟨-, -, -, rfl, -⟩ := execPush_cases h <;>
    exact ⟨rfl, rfl, rfl, rfl, rfl, rfl, rfl, rfl⟩

/-- The slots `0 .. k` fail to read after a store to `k` exactly when an older one among them is unwritten. -/
theorem Memory.readSlots_range_write_eq_none (m : Memory) (k : Nat) (b : Byte) :
    (m.write k b).readSlots (List.range (k + 1)) = none ↔ ∃ slot : Nat, slot < k ∧ m.read slot = none := by
  rw [Memory.readSlots_eq_none]
  constructor
  · rintro ⟨slot, hslot, hnone⟩
    rw [List.mem_range] at hslot
    have hne : slot ≠ k := by rintro rfl; simp at hnone
    exact ⟨slot, by omega, by rwa [Memory.read_write_other m b hne] at hnone⟩
  · rintro ⟨slot, hslot, hnone⟩
    exact ⟨slot, List.mem_range.2 (by omega), by rwa [Memory.read_write_other m b (by omega)]⟩

end Sys2Proof.Machine
end

section
/-! PROOFS. Which `PUSH` breaches (42_engine.md R72, R75). -/

namespace Sys2Proof.Machine

/-- The two breaches of R72: an unwritten slot in the window it completes, or no open CRC or no byte to evict in a full one. -/
def State.PushBreaches (s : State) : Prop :=
  (s.count.toNat + 1 = s.wsize.toNat ∧ ∃ slot : Nat, slot < s.wsize.toNat - 1 ∧ s.win.read slot = none) ∨
  (s.wsize.toNat ≤ s.count.toNat ∧ (s.lastValid = false ∨ s.win.read s.cursor.toNat = none))

/-- A `PUSH` ends in the fault state exactly when it is accepted, has a window, and breaches (R72, R89). -/
theorem execPush_errFatal {b : Byte} {s t : State} (hf : s.errFatal = false) (h : execPush b s = .next t) :
    t.errFatal = true ↔ s.count.toNat < 2 ^ 64 - 1 ∧ 1 ≤ s.wsize.toNat ∧ s.PushBreaches := by
  have hlim : s.count.toNat < 2 ^ 64 := s.count.isLt
  obtain ⟨-, hc, rfl⟩ | ⟨-, -, hw, rfl⟩ | ⟨-, -, hlt, -, rfl⟩ | ⟨-, -, heq, -, bytes, hbytes, rfl⟩ |
    ⟨-, -, -, hle, hvalid, -, evicted, hread, rfl⟩ | ⟨-, hc, h1, rfl, hbreach⟩ :=
    (execPush_cases h).resolve_left (by simp [hf])
  · simp [hf, hc]
  · simp [hf, hw]
  · simp only [setCount_errFatal, hf, Bool.false_eq_true, false_iff, State.PushBreaches]
    omega
  · have hnone : ¬ ∃ slot : Nat, slot < s.count.toNat ∧ s.win.read slot = none := by
      rw [← Memory.readSlots_range_write_eq_none _ _ b, heq, hbytes]; exact Option.some_ne_none _
    rw [show s.count.toNat = s.wsize.toNat - 1 by omega] at hnone
    simp only [report_errFatal, setCount_errFatal, hf, Bool.false_eq_true, false_iff, State.PushBreaches, hnone, and_false,
      false_or]
    omega
  · simp only [report_errFatal, setCount_errFatal, hf, Bool.false_eq_true, false_iff, State.PushBreaches, hvalid, hread,
      reduceCtorEq, or_false, and_false]
    omega
  · simp only [raise_errFatal, hf, Bool.false_or, beq_self_eq_true, true_iff]
    refine ⟨by omega, h1, ?_⟩
    obtain ⟨heq, hnone⟩ | hfull := hbreach
    · rw [← heq, Memory.readSlots_range_write_eq_none] at hnone
      exact .inl ⟨heq, by rwa [← heq, Nat.add_sub_cancel]⟩
    · exact .inr hfull

end Sys2Proof.Machine
end

section
/-! PROOFS. The invariants of 10_state.md R31 in two parts, and what they say of `WIN`. -/

namespace Sys2Proof.Machine

/-- The part of `State.Inv` about the context and the flags. -/
structure State.ContextInv (s : State) : Prop where
  valid : s.config.valid
  wsize_le : s.wsize.toNat ≤ s.config.maxWindow.toNat
  roll_eq : s.roll = Crc.rollTable s.wsize.toNat
  not_fatal : s.errFatal = false
  not_busy : s.busy = false

/-- The part of `State.Inv` about the stream: items (1) to (3) of R31. -/
structure State.StreamInv (s : State) : Prop where
  slots : s.win.slots = List.range s.filled
  lastValid_iff : s.lastValid = true ↔ 1 ≤ s.wsize.toNat ∧ s.wsize.toNat ≤ s.count.toNat
  cursor_lt : 1 ≤ s.wsize.toNat → s.cursor.toNat < s.wsize.toNat
  cursor_filling : s.count.toNat < s.wsize.toNat → s.cursor = 0
  cursor_zeroWindow : s.wsize = 0 → s.cursor = 0

theorem State.inv_iff (s : State) : s.Inv ↔ s.ContextInv ∧ s.StreamInv :=
  ⟨fun ⟨hvalid, hle, hslots, hlast, hlt, hfill, hzero, hroll, hfatal, hbusy⟩ =>
      ⟨⟨hvalid, hle, hroll, hfatal, hbusy⟩, ⟨hslots, hlast, hlt, hfill, hzero⟩⟩,
    fun ⟨⟨hvalid, hle, hroll, hfatal, hbusy⟩, ⟨hslots, hlast, hlt, hfill, hzero⟩⟩ =>
      ⟨hvalid, hle, hslots, hlast, hlt, hfill, hzero, hroll, hfatal, hbusy⟩⟩

theorem State.Inv.context {s : State} (h : s.Inv) : s.ContextInv := ((State.inv_iff s).1 h).1

theorem State.Inv.stream {s : State} (h : s.Inv) : s.StreamInv := ((State.inv_iff s).1 h).2

/-- R31 (1): the written slots are the first `min(COUNT, w)`. -/
theorem State.StreamInv.read_isSome_iff {s : State} (h : s.StreamInv) (slot : Nat) :
    (s.win.read slot).isSome = true ↔ slot < s.filled := by
  rw [Memory.read_isSome_iff, h.slots, List.mem_range]

theorem State.StreamInv.read_ne_none {s : State} (h : s.StreamInv) {slot : Nat} (hslot : slot < s.filled) :
    s.win.read slot ≠ none :=
  Option.isSome_iff_ne_none.1 ((h.read_isSome_iff slot).2 hslot)

theorem State.StreamInv.win_wf {s : State} (h : s.StreamInv) : s.win.wf := by
  rw [Memory.wf_iff_slots, h.slots]; exact List.pairwise_lt_range

/-- In a full window `CURSOR` is the index of a written slot. -/
theorem State.StreamInv.cursor_lt_filled {s : State} (h : s.StreamInv) (hw : 1 ≤ s.wsize.toNat)
    (hfull : s.wsize.toNat ≤ s.count.toNat) : s.cursor.toNat < s.filled := by
  simpa only [State.filled, Nat.min_eq_right hfull] using h.cursor_lt hw

/-- R75, on one state: the invariants of the stream leave no breach. -/
theorem State.StreamInv.not_pushBreaches {s : State} (h : s.StreamInv) (hw : 1 ≤ s.wsize.toNat) : ¬ s.PushBreaches := by
  rintro (⟨heq, slot, hslot, hnone⟩ | ⟨hfull, hlast | hnone⟩)
  · exact h.read_ne_none (by simp only [State.filled]; omega) hnone
  · simp [h.lastValid_iff.2 ⟨hw, hfull⟩] at hlast
  · exact h.read_ne_none (h.cursor_lt_filled hw hfull) hnone

/-! ### A fresh stream -/

/-- What `StreamReset()` (R71) makes of the stream, as far as the invariants see it. -/
structure State.Fresh (s : State) : Prop where
  win : s.win = Memory.empty
  cursor : s.cursor = 0
  count : s.count = 0
  lastValid : s.lastValid = false
  rvalid : s.rvalid = false

theorem streamReset_fresh (s : State) : (streamReset s).Fresh := ⟨rfl, rfl, rfl, rfl, rfl⟩

theorem configure_fresh (w : WindowSize) (s : State) : (configure w s).Fresh := streamReset_fresh _

theorem hardwareReset_fresh (s : State) : (hardwareReset s).Fresh := ⟨rfl, rfl, rfl, rfl, rfl⟩

theorem resetWith_fresh (c : Config) : (State.resetWith c).Fresh := ⟨rfl, rfl, rfl, rfl, rfl⟩

theorem State.Fresh.streamInv {s : State} (h : s.Fresh) : s.StreamInv where
  slots := by simp [h.win, State.filled, h.count]
  lastValid_iff := by
    have hcount : s.count.toNat = 0 := by simp [h.count]
    exact iff_of_false (by simp [h.lastValid]) (by omega)
  cursor_lt hw := by
    have hcursor : s.cursor.toNat = 0 := by simp [h.cursor]
    omega
  cursor_filling _ := h.cursor
  cursor_zeroWindow _ := h.cursor

theorem State.Fresh.crcInv {s : State} (h : s.Fresh) : s.CrcInv := by
  simp [State.CrcInv, h.lastValid, h.rvalid]

theorem resetWith_inv {c : Config} (h : c.valid) : (State.resetWith c).Inv :=
  (State.inv_iff _).2 ⟨⟨h, Nat.zero_le _, rfl, rfl, rfl⟩, (resetWith_fresh c).streamInv⟩

theorem hardwareReset_inv {s : State} (h : s.config.valid) : (hardwareReset s).Inv :=
  (State.inv_iff _).2 ⟨⟨h, Nat.zero_le _, rfl, rfl, rfl⟩, (hardwareReset_fresh s).streamInv⟩

theorem streamReset_inv {s : State} (h : s.ContextInv) : (streamReset s).Inv :=
  (State.inv_iff _).2 ⟨⟨h.valid, h.wsize_le, h.roll_eq, h.not_fatal, h.not_busy⟩, (streamReset_fresh s).streamInv⟩

theorem configure_inv {s : State} {w : WindowSize} (h : s.ContextInv) (hw : w.toNat ≤ s.config.maxWindow.toNat) :
    (configure w s).Inv :=
  (State.inv_iff _).2 ⟨⟨h.valid, hw, rfl, h.not_fatal, h.not_busy⟩, (configure_fresh w s).streamInv⟩

/-! ### `PUSH` -/

theorem toNat_count_succ {s : State} (h : s.count.toNat ≠ 2 ^ 64 - 1) :
    (BitVec.ofNat 64 (s.count.toNat + 1)).toNat = s.count.toNat + 1 := by
  have := s.count.isLt
  rw [BitVec.toNat_ofNat]; exact Nat.mod_eq_of_lt (by omega)

/-- The cursor's increment (R72) does not wrap its 24 bits. -/
theorem toNat_cursor_next (s : State) (h : 1 ≤ s.wsize.toNat) :
    (BitVec.ofNat 24 ((s.cursor.toNat + 1) % s.wsize.toNat)).toNat = (s.cursor.toNat + 1) % s.wsize.toNat := by
  have hmod := Nat.mod_lt (s.cursor.toNat + 1) h
  have := s.wsize.isLt
  rw [BitVec.toNat_ofNat]; exact Nat.mod_eq_of_lt (by omega)

/-- Storing the byte while the window fills or completes: one more slot is written, the cursor stays at 0. -/
theorem State.StreamInv.fill {s t : State} (h : s.StreamInv) (b : Byte) (hlt : s.count.toNat < s.wsize.toNat)
    (hwsize : t.wsize = s.wsize) (hcursor : t.cursor = s.cursor) (hcount : t.count.toNat = s.count.toNat + 1)
    (hwin : t.win = s.win.write s.count.toNat b) (hlast : t.lastValid = true ↔ s.wsize.toNat ≤ s.count.toNat + 1) :
    t.StreamInv where
  slots := by
    have hslots := h.slots
    rw [State.filled, Nat.min_eq_left (Nat.le_of_lt hlt)] at hslots
    rw [hwin, Memory.slots_write_next _ _ _ hslots, State.filled, hwsize, hcount, Nat.min_eq_left hlt]
  lastValid_iff := by rw [hlast, hwsize, hcount]; omega
  cursor_lt := by rw [hwsize, hcursor]; exact h.cursor_lt
  cursor_filling _ := hcursor.trans (h.cursor_filling hlt)
  cursor_zeroWindow _ := hcursor.trans (h.cursor_filling hlt)

/-- Evicting the oldest byte of a full window: the same slots are written, the cursor moves on. -/
theorem State.StreamInv.roll {s t : State} (h : s.StreamInv) (b : Byte) (hw : 1 ≤ s.wsize.toNat)
    (hfull : s.wsize.toNat ≤ s.count.toNat) (hwsize : t.wsize = s.wsize)
    (hcursor : t.cursor.toNat = (s.cursor.toNat + 1) % s.wsize.toNat) (hcount : t.count.toNat = s.count.toNat + 1)
    (hwin : t.win = s.win.write s.cursor.toNat b) (hlast : t.lastValid = true) : t.StreamInv where
  slots := by
    have hmem : s.cursor.toNat ∈ s.win.slots := by
      rw [h.slots, List.mem_range]; exact h.cursor_lt_filled hw hfull
    rw [hwin, Memory.slots_write_old _ _ _ h.win_wf hmem, h.slots, State.filled, State.filled, hwsize, hcount,
      Nat.min_eq_right hfull, Nat.min_eq_right (Nat.le_succ_of_le hfull)]
  lastValid_iff := by rw [hwsize, hcount]; exact iff_of_true hlast ⟨hw, Nat.le_succ_of_le hfull⟩
  cursor_lt _ := by rw [hwsize, hcursor]; exact Nat.mod_lt _ hw
  cursor_filling hlt := by rw [hwsize, hcount] at hlt; omega
  cursor_zeroWindow hz := by simp [← hwsize, hz] at hw

/-- In the zero window the stream's invariants do not depend on the count (R78). -/
theorem State.StreamInv.zeroWindow {s t : State} (h : s.StreamInv) (hw : s.wsize.toNat = 0) (hwsize : t.wsize = s.wsize)
    (hcursor : t.cursor = s.cursor) (hwin : t.win = s.win) (hlast : t.lastValid = s.lastValid) : t.StreamInv where
  slots := by rw [hwin, h.slots, State.filled, State.filled, hwsize, hw, Nat.min_zero, Nat.min_zero]
  lastValid_iff := by rw [hlast, h.lastValid_iff, hwsize]; omega
  cursor_lt := by rw [hwsize, hcursor]; exact h.cursor_lt
  cursor_filling hlt := by rw [hwsize, hw] at hlt; omega
  cursor_zeroWindow := by rw [hwsize, hcursor]; exact h.cursor_zeroWindow

/-- An error leaves the stream alone (R89). -/
theorem State.StreamInv.raise {s : State} (h : s.StreamInv) (e : ErrorKind) : (raise e s).StreamInv where
  slots := by simpa [State.filled] using h.slots
  lastValid_iff := by simpa using h.lastValid_iff
  cursor_lt := by simpa using h.cursor_lt
  cursor_filling := by simpa using h.cursor_filling
  cursor_zeroWindow := by simpa using h.cursor_zeroWindow

theorem execPush_streamInv {b : Byte} {s t : State} (h : s.StreamInv) (hp : execPush b s = .next t) : t.StreamInv := by
  obtain ⟨-, rfl⟩ | ⟨-, -, rfl⟩ | ⟨-, -, hw, rfl⟩ | ⟨-, hc, hlt, -, rfl⟩ | ⟨-, hc, heq, -, bytes, -, rfl⟩ |
    ⟨-, hc, hw, hfull, hvalid, -, evicted, -, rfl⟩ | ⟨-, -, -, rfl, -⟩ := execPush_cases hp
  · exact h
  · exact h.raise .countOverflow
  · exact h.zeroWindow hw rfl rfl rfl rfl
  · have hlast : ¬ s.lastValid = true := by rw [h.lastValid_iff]; omega
    exact h.fill b (by omega) rfl rfl (toNat_count_succ hc) rfl (iff_of_false hlast (by omega))
  · exact h.fill b (by omega) rfl rfl (toNat_count_succ hc) rfl (iff_of_true rfl (by omega))
  · exact h.roll b hw hfull rfl (toNat_cursor_next s hw) (toNat_count_succ hc) rfl hvalid
  · exact h.raise .invariantBreach

theorem execPush_contextInv {b : Byte} {s t : State} (hctx : s.ContextInv) (hstream : s.StreamInv)
    (hp : execPush b s = .next t) : t.ContextInv := by
  obtain ⟨hconfig, hwsize, hroll, -, -, -, -, hbusy⟩ := execPush_frame hp
  exact
    { valid := by rw [hconfig]; exact hctx.valid
      wsize_le := by rw [hwsize, hconfig]; exact hctx.wsize_le
      roll_eq := by rw [hroll, hwsize]; exact hctx.roll_eq
      not_fatal := by
        rw [← Bool.not_eq_true, execPush_errFatal hctx.not_fatal hp]
        exact fun ⟨_, hw, hbreach⟩ => hstream.not_pushBreaches hw hbreach
      not_busy := by rw [hbusy]; exact hctx.not_busy }

theorem execPush_inv {b : Byte} {s t : State} (h : s.Inv) (hp : execPush b s = .next t) : t.Inv :=
  (State.inv_iff t).2 ⟨execPush_contextInv h.context h.stream hp, execPush_streamInv h.stream hp⟩

/-! ### Every command, every word, every step -/

/-- `P` is a property of the context and the stream that all their writers keep: it says nothing of `CKACC`, `TDATA`, the flags
that have a recovery, or the undelivered events, and the two resets, an accepted `CFG` and `PUSH` keep it. -/
structure KeptByWriters (P : State → Prop) : Prop where
  outside : ∀ (s : State) (ckacc : Crc) (tdata : Word) (errIllegal errWsize errCount : Bool) (port : List PortEvent), P s →
    P { s with ckacc, tdata, errIllegal, errWsize, errCount, port }
  hardwareReset : ∀ s, P s → P (hardwareReset s)
  streamReset : ∀ s, P s → P (streamReset s)
  configure : ∀ s w, P s → w.toNat ≤ s.config.maxWindow.toNat → P (configure w s)
  push : ∀ s t b, P s → execPush b s = .next t → P t

section
variable {P : State → Prop}

theorem KeptByWriters.exec (hP : KeptByWriters P) {i : Instr} {s t : State} (h : P s) (he : exec i s = .next t) : P t := by
  cases i with
  | nop => rw [execNop_cases he]; exact h
  | cfg w =>
    obtain ⟨-, rfl⟩ | ⟨-, -, rfl⟩ | ⟨-, hw, rfl⟩ := execCfg_cases he
    · exact h
    · exact hP.outside s _ _ _ true _ _ h
    · exact hP.configure s w h hw
  | push b => exact hP.push s t b h he
  | srst =>
    obtain ⟨-, rfl⟩ | ⟨-, rfl⟩ := execSrst_cases he
    · exact h
    · exact hP.streamReset s h
  | ckinit =>
    obtain ⟨-, rfl⟩ | ⟨-, rfl⟩ := execCkinit_cases he
    · exact h
    · exact hP.outside s Config.init _ _ _ _ _ h
  | ckbyte b =>
    obtain ⟨-, rfl⟩ | ⟨-, rfl⟩ := execCkbyte_cases he
    · exact h
    · exact hP.outside s (Crc.upd s.ckacc b) _ _ _ _ _ h
  | rdtab sel i =>
    obtain ⟨-, rfl⟩ | ⟨-, rfl⟩ := execRdtab_cases he
    · exact h
    · exact hP.outside s _ (s.tableEntry sel i) _ _ _ _ h
  | clrerr =>
    obtain ⟨-, rfl⟩ | ⟨-, rfl⟩ := execClrerr_cases he
    · exact h
    · exact hP.outside s _ _ false false _ _ h

theorem KeptByWriters.execWord (hP : KeptByWriters P) {cmd : Word} {s t : State} (h : P s)
    (hx : execWord cmd s = .next t) : P t := by
  obtain ⟨i, -, he⟩ | ⟨e, -, he⟩ := execWord_cases hx
  · exact hP.exec h he
  · obtain ⟨-, rfl⟩ | ⟨-, rfl⟩ := execIllegal_cases he
    · exact h
    · exact hP.outside s _ _ true _ _ _ h

theorem KeptByWriters.step (hP : KeptByWriters P) {s t : State} (h : P s) (hs : step s = .next t) : P t := by
  obtain ⟨-, -, rfl⟩ | ⟨rest, -, rfl⟩ | ⟨cmd, rest, -, -, hx⟩ := step_cases hs
  · exact h
  · exact hP.hardwareReset _ (hP.outside s _ _ _ _ _ rest h)
  · exact hP.execWord (hP.outside s _ _ _ _ _ rest h) hx

end

theorem inv_keptByWriters : KeptByWriters State.Inv where
  outside _ _ _ _ _ _ _ h := h
  hardwareReset _ h := hardwareReset_inv h.context.valid
  streamReset _ h := streamReset_inv h.context
  configure _ _ h hw := configure_inv h.context hw
  push _ _ _ h hp := execPush_inv h hp

/-- Settles O45: each writer of the context or the stream keeps the invariants; `PUSH` by the branches of R72. -/
theorem stepKeepsTheInvariants : Obligations.StepKeepsTheInvariants :=
  fun _ _ => inv_keptByWriters.step

theorem Reachable.inv {s : State} (h : Reachable s) : s.Inv := by
  induction h with
  | reset c hc => exact resetWith_inv hc
  | deliver s e _ ih => exact ih
  | step s t _ hs ih => exact inv_keptByWriters.step ih hs

/-- Settles O48: R31's items are among the invariants, which hold along every run. -/
theorem reachableStatesMeetR31 : Obligations.ReachableStatesMeetR31 := by
  intro s hs
  obtain ⟨hctx, hstream⟩ := (State.inv_iff s).1 hs.inv
  exact ⟨hstream.read_isSome_iff, by rw [hstream.lastValid_iff, and_comm], hstream.cursor_lt, hstream.cursor_filling,
    hstream.cursor_zeroWindow, hctx.roll_eq, hctx.not_fatal⟩

/-- Settles O44: at reset the stream is fresh, so the invariants hold for every parameter R5 allows. -/
theorem resetStateMeetsTheInvariants : Obligations.ResetStateMeetsTheInvariants := by
  have hreset : ∀ c : Config, c.valid → (State.resetWith c).Inv ∧ (State.resetWith c).CrcInv :=
    fun c hc => ⟨resetWith_inv hc, (resetWith_fresh c).crcInv⟩
  exact ⟨hreset, hreset Config.reference (by decide)⟩

end Sys2Proof.Machine
end

section
/-! PROOFS. The rolling update (42_engine.md R72) keeps the reported checksum that of the logical window (R76). -/

namespace Sys2Proof.Machine

/-- The slots of a full window of size `w`, oldest byte first (10_state.md R32). -/
def windowSlots (cursor w : Nat) : List Nat := (List.range w).map fun i => (cursor + i) % w

theorem State.logicalWindow_of_full {s : State} (h : s.wsize.toNat ≤ s.count.toNat) :
    s.logicalWindow = s.win.readSlots (windowSlots s.cursor.toNat s.wsize.toNat) :=
  if_neg (Nat.not_lt.2 h)

/-- The slots after the oldest one, which an eviction leaves alone. -/
def keptSlots (cursor k : Nat) : List Nat := (List.range k).map fun i => (cursor + (i + 1)) % (k + 1)

theorem windowSlots_zero (w : Nat) : windowSlots 0 w = List.range w := by
  refine (List.map_congr_left fun i hi => ?_).trans (List.map_id _)
  rw [Nat.zero_add, Nat.mod_eq_of_lt (List.mem_range.1 hi), id]

theorem windowSlots_eq_cons {cursor k : Nat} (h : cursor < k + 1) :
    windowSlots cursor (k + 1) = cursor :: keptSlots cursor k := by
  rw [windowSlots, List.range_succ_eq_map, List.map_cons, List.map_map, Nat.add_zero, Nat.mod_eq_of_lt h]; rfl

theorem windowSlots_next {cursor k : Nat} (h : cursor < k + 1) :
    windowSlots ((cursor + 1) % (k + 1)) (k + 1) = keptSlots cursor k ++ [cursor] := by
  have hlast : ((cursor + 1) % (k + 1) + k) % (k + 1) = cursor := by
    rw [Nat.mod_add_mod, Nat.add_assoc, Nat.add_comm 1 k, Nat.add_mod_right, Nat.mod_eq_of_lt h]
  rw [windowSlots, List.range_succ, List.map_append, List.map_singleton, hlast, keptSlots]
  congr 1
  refine List.map_congr_left fun i _ => ?_
  rw [Nat.mod_add_mod, Nat.add_assoc, Nat.add_comm 1 i]

theorem notMem_keptSlots {cursor k : Nat} (h : cursor < k + 1) : cursor ∉ keptSlots cursor k := by
  simp only [keptSlots, List.mem_map, List.mem_range, not_exists, not_and]
  intro i hi heq
  obtain hlt | hge := Nat.lt_or_ge (cursor + (i + 1)) (k + 1)
  · rw [Nat.mod_eq_of_lt hlt] at heq; omega
  · rw [Nat.mod_eq_sub_mod hge, Nat.mod_eq_of_lt (by omega)] at heq; omega

/-- The window the eviction leaves: what was read after the evicted byte, and then the new byte. -/
theorem Memory.readSlots_windowSlots_write {m : Memory} {cursor k : Nat} {bytes : List Byte} (b : Byte) (h : cursor < k + 1)
    (hkept : m.readSlots (keptSlots cursor k) = some bytes) :
    (m.write cursor b).readSlots (windowSlots ((cursor + 1) % (k + 1)) (k + 1)) = some (bytes ++ [b]) := by
  rw [windowSlots_next h]
  refine Memory.readSlots_append _ _ _ _ _ ?_ ?_
  · rw [Memory.readSlots_write_other _ _ _ _ (notMem_keptSlots h), hkept]
  · simp [Memory.readSlots]

/-- Reading a nonempty list of slots succeeds exactly when its head and its tail do. -/
theorem Memory.readSlots_cons_eq_some {m : Memory} {slot : Nat} {rest : List Nat} {bytes : List Byte} {b : Byte}
    (hread : m.read slot = some b) (h : m.readSlots (slot :: rest) = some bytes) :
    ∃ kept, m.readSlots rest = some kept ∧ bytes = b :: kept := by
  rw [Memory.readSlots, hread] at h
  cases hrest : m.readSlots rest with
  | none => simp [hrest] at h
  | some kept => exact ⟨kept, rfl, by simpa [hrest, eq_comm] using h⟩

/-- R20: the open CRC, when there is one, is that of the logical window. -/
def State.OpenCrcOf (s : State) (o : Crc) : Prop := s.logicalWindow.map (Crc.fold Config.init) = some o

/-- A completed window: `CURSOR = 0`, so the bytes come in slot order (R72, First-Full). -/
theorem openCrcOf_firstFull {t : State} {bytes : List Byte} (hfull : t.wsize.toNat ≤ t.count.toNat) (hcursor : t.cursor = 0)
    (hbytes : t.win.readSlots (List.range t.wsize.toNat) = some bytes) : t.OpenCrcOf (Crc.fold Config.init bytes) := by
  have hzero : t.cursor.toNat = 0 := by simp [hcursor]
  rw [State.OpenCrcOf, State.logicalWindow_of_full hfull, hzero, windowSlots_zero, hbytes, Option.map_some]

/-- The rolling step (R72) on the open CRC: the contract of the table (R63) on the logical window. -/
theorem openCrcOf_rolling {s t : State} {o : Crc} {evicted : Byte} (b : Byte) (hinv : s.Inv) (hw : 1 ≤ s.wsize.toNat)
    (hfull : s.wsize.toNat ≤ s.count.toNat) (ho : s.OpenCrcOf o) (hread : s.win.read s.cursor.toNat = some evicted)
    (hwsize : t.wsize = s.wsize) (htfull : s.wsize.toNat ≤ t.count.toNat)
    (hcursor : t.cursor.toNat = (s.cursor.toNat + 1) % s.wsize.toNat) (hwin : t.win = s.win.write s.cursor.toNat b) :
    t.OpenCrcOf (Crc.upd o b ^^^ s.rollRead evicted) := by
  have hlt := hinv.stream.cursor_lt hw
  have hroll : s.rollRead evicted = Crc.rollEntry s.wsize.toNat evicted := by
    rw [State.rollRead, hinv.context.roll_eq, Crc.rollTable_get (by omega)]
  rw [State.OpenCrcOf, State.logicalWindow_of_full hfull] at ho
  rw [State.OpenCrcOf, State.logicalWindow_of_full (hwsize ▸ htfull), hroll, hwin, hcursor, hwsize]
  obtain ⟨k, hk⟩ : ∃ k, s.wsize.toNat = k + 1 := ⟨s.wsize.toNat - 1, by omega⟩
  rw [hk] at hlt ho ⊢
  obtain ⟨bytes, hbytes, rfl⟩ := Option.map_eq_some_iff.1 ho
  rw [windowSlots_eq_cons hlt] at hbytes
  obtain ⟨kept, hkept, rfl⟩ := Memory.readSlots_cons_eq_some hread hbytes
  have hlength : kept.length = k := by simpa [keptSlots] using Memory.readSlots_length hkept
  rw [Memory.readSlots_windowSlots_write b hlt hkept, Option.map_some, ← hlength, Crc.upd_fold_xor_rollEntry]

/-- A push that reports (R72) leaves the result registers as R76 says, if the open CRC it reports is the window's. -/
theorem crcInv_of_report {t : State} {o : Crc} (hopen : t.OpenCrcOf o) (hlastOpen : t.lastOpen = o)
    (hlast : t.lastValid = true) (hresult : t.result = Crc.close o)
    (hrpos : t.rpos.toNat = t.count.toNat - t.wsize.toNat) : t.CrcInv :=
  ⟨fun _ => hlastOpen ▸ hopen, fun _ => ⟨hlast, hlastOpen ▸ hresult, hrpos⟩⟩

/-- Before the window is full there is nothing to say of the result registers. -/
theorem crcInv_of_no_crc {t : State} (hlast : t.lastValid = false) (hrvalid : t.rvalid = false) : t.CrcInv := by
  simp [State.CrcInv, hlast, hrvalid]

/-- `RPOS` (R23, R72) holds every position. -/
theorem toNat_rpos (s : State) (hc : s.count.toNat ≠ 2 ^ 64 - 1) :
    (BitVec.ofNat 64 (s.count.toNat + 1 - s.wsize.toNat)).toNat = s.count.toNat + 1 - s.wsize.toNat := by
  have := s.count.isLt
  rw [BitVec.toNat_ofNat]; exact Nat.mod_eq_of_lt (by omega)

theorem execPush_crcInv {b : Byte} {s t : State} (hinv : s.Inv) (h : s.CrcInv) (hp : execPush b s = .next t) : t.CrcInv := by
  have hstream := hinv.stream
  obtain ⟨hopen, hresult⟩ := h
  have hnone (hlt : s.count.toNat < s.wsize.toNat ∨ s.wsize.toNat = 0) : s.lastValid = false := by
    rw [← Bool.not_eq_true, hstream.lastValid_iff]; omega
  obtain ⟨-, rfl⟩ | ⟨-, -, rfl⟩ | ⟨-, -, hw, rfl⟩ | ⟨-, -, hlt, -, rfl⟩ | ⟨-, hc, heq, -, bytes, hbytes, rfl⟩ |
    ⟨-, hc, hw, hfull, hvalid, -, evicted, hread, rfl⟩ | ⟨-, -, -, rfl, -⟩ := execPush_cases hp
  · exact ⟨hopen, hresult⟩
  · exact ⟨hopen, hresult⟩
  · exact crcInv_of_no_crc (hnone (.inr hw)) rfl
  · exact crcInv_of_no_crc (hnone (.inl (by omega))) rfl
  · have hcount := toNat_count_succ hc
    refine crcInv_of_report (openCrcOf_firstFull ?_ (hstream.cursor_filling (by omega)) hbytes) rfl rfl rfl ?_
    · exact (Nat.le_of_eq heq.symm).trans (Nat.le_of_eq hcount.symm)
    · exact (toNat_rpos s hc).trans (congrArg (· - s.wsize.toNat) hcount.symm)
  · have hcount := toNat_count_succ hc
    refine crcInv_of_report (openCrcOf_rolling b hinv hw hfull (hopen hvalid) hread rfl ?_ (toNat_cursor_next s hw) rfl)
      rfl hvalid rfl ?_
    · exact (Nat.le_succ_of_le hfull).trans (Nat.le_of_eq hcount.symm)
    · exact (toNat_rpos s hc).trans (congrArg (· - s.wsize.toNat) hcount.symm)
  · exact ⟨hopen, hresult⟩

/-- A Rolling push needs `State.Inv` too, so both are carried. -/
theorem inv_crcInv_keptByWriters : KeptByWriters fun s => s.Inv ∧ s.CrcInv where
  outside _ _ _ _ _ _ _ h := h
  hardwareReset s h := ⟨hardwareReset_inv h.1.context.valid, (hardwareReset_fresh s).crcInv⟩
  streamReset s h := ⟨streamReset_inv h.1.context, (streamReset_fresh s).crcInv⟩
  configure s w h hw := ⟨configure_inv h.1.context hw, (configure_fresh w s).crcInv⟩
  push _ _ _ h hp := ⟨execPush_inv h.1 hp, execPush_crcInv h.1 h.2 hp⟩

/-- Settles O46: a stream reset leaves nothing reported; a First-Full push folds the window itself; a Rolling push goes by the
contract of the table; every other command leaves the stream's registers alone. -/
theorem stepKeepsTheReportedChecksumRight : Obligations.StepKeepsTheReportedChecksumRight :=
  fun _ _ hinv hcrc hs => (inv_crcInv_keptByWriters.step ⟨hinv, hcrc⟩ hs).2

end Sys2Proof.Machine
end

section
/-! PROOFS. `PUSH` at a slot that does not exist (10_state.md R17; log 6). -/

namespace Sys2Proof.Machine

/-- An accepted `PUSH` while the window fills or completes reaches slot `COUNT`; without that slot it stops. -/
theorem execPush_of_absent_count_slot {b : Byte} {s : State} (hf : s.errFatal = false) (hc : s.count.toNat < 2 ^ 64 - 1)
    (hlt : s.count.toNat < s.wsize.toNat) (hslot : ¬ s.slotExists s.count.toNat = true) :
    execPush b s = .fault .windowSlotAbsent := by
  rw [execPush, unlessFatal_of_not_fatal hf]
  simp only [if_neg (Nat.ne_of_lt hc), if_neg (Nat.ne_zero_of_lt hlt)]
  obtain hfill | hfirst := Nat.lt_or_eq_of_le (Nat.succ_le_of_lt hlt)
  · rw [if_pos hfill, pushFilling, Nat.add_sub_cancel, if_neg hslot]
  · have hlast : s.wsize.toNat - 1 = s.count.toNat := by omega
    rw [if_neg (Nat.not_lt.2 (Nat.le_of_eq hfirst.symm)), if_pos hfirst, pushFirstFull, hlast]
    exact if_neg hslot

/-- An accepted `PUSH` in a full window reaches slot `CURSOR`; without that slot it stops. -/
theorem execPush_of_absent_cursor_slot {b : Byte} {s : State} (hf : s.errFatal = false) (hc : s.count.toNat < 2 ^ 64 - 1)
    (hw : 1 ≤ s.wsize.toNat) (hfull : s.wsize.toNat ≤ s.count.toNat) (hvalid : s.lastValid = true)
    (hslot : ¬ s.slotExists s.cursor.toNat = true) : execPush b s = .fault .windowSlotAbsent := by
  have hfill : ¬ s.count.toNat + 1 < s.wsize.toNat := by omega
  have hfirst : ¬ s.count.toNat + 1 = s.wsize.toNat := by omega
  rw [execPush, unlessFatal_of_not_fatal hf]
  simp only [if_neg (Nat.ne_of_lt hc), if_neg (Nat.ne_zero_of_lt hw), if_neg hfill, if_neg hfirst, pushRolling, hvalid,
    Bool.true_eq_false, if_false, if_neg hslot]

/-- Settles O28: by whether the window is full, the slot reached is `COUNT` or `CURSOR`. -/
theorem pushAtAnAbsentSlotFaults : Obligations.PushAtAnAbsentSlotFaults := by
  intro s b hf hc
  refine ⟨fun hlt habsent => ?_, fun hw hfull hvalid habsent => ?_⟩
  · exact execPush_of_absent_count_slot hf hc hlt (by rw [slotExists_iff]; omega)
  · exact execPush_of_absent_cursor_slot hf hc hw hfull hvalid (by rw [slotExists_iff]; omega)

end Sys2Proof.Machine
end

section
/-! PROOFS. Which words write the fold and table registers, and which set and clear the sticky flags (10_state.md R24 to R26). -/

namespace Sys2Proof.Machine

/-- R24: `CKINIT` and `CKBYTE` are the writers of `CKACC`. -/
theorem exec_ckacc {i : Instr} {s t : State} (he : exec i s = .next t) (hbyte : ∀ b, i ≠ .ckbyte b) (hinit : i ≠ .ckinit) :
    t.ckacc = s.ckacc := by
  cases i with
  | nop => rw [execNop_cases he]
  | cfg w => obtain ⟨-, rfl⟩ | ⟨-, -, rfl⟩ | ⟨-, -, rfl⟩ := execCfg_cases he <;> rfl
  | push b => obtain ⟨-, -, -, hckacc, -⟩ := execPush_frame he; exact hckacc
  | srst => obtain ⟨-, rfl⟩ | ⟨-, rfl⟩ := execSrst_cases he <;> rfl
  | ckinit => exact absurd rfl hinit
  | ckbyte b => exact absurd rfl (hbyte b)
  | rdtab sel i => obtain ⟨-, rfl⟩ | ⟨-, rfl⟩ := execRdtab_cases he <;> rfl
  | clrerr => obtain ⟨-, rfl⟩ | ⟨-, rfl⟩ := execClrerr_cases he <;> rfl

/-- R25: `RDTAB` is the writer of `TDATA`. -/
theorem exec_tdata {i : Instr} {s t : State} (he : exec i s = .next t) (hrdtab : ∀ sel index, i ≠ .rdtab sel index) :
    t.tdata = s.tdata := by
  cases i with
  | nop => rw [execNop_cases he]
  | cfg w => obtain ⟨-, rfl⟩ | ⟨-, -, rfl⟩ | ⟨-, -, rfl⟩ := execCfg_cases he <;> rfl
  | push b => obtain ⟨-, -, -, -, htdata, -⟩ := execPush_frame he; exact htdata
  | srst => obtain ⟨-, rfl⟩ | ⟨-, rfl⟩ := execSrst_cases he <;> rfl
  | ckinit => obtain ⟨-, rfl⟩ | ⟨-, rfl⟩ := execCkinit_cases he <;> rfl
  | ckbyte b => obtain ⟨-, rfl⟩ | ⟨-, rfl⟩ := execCkbyte_cases he <;> rfl
  | rdtab sel i => exact absurd rfl (hrdtab sel i)
  | clrerr => obtain ⟨-, rfl⟩ | ⟨-, rfl⟩ := execClrerr_cases he <;> rfl

/-- Settles O31: by whether the word is a command, then by the command; an illegal word writes neither register. -/
theorem foldAndTableRegistersHaveTheirOwnWriters : Obligations.FoldAndTableRegistersHaveTheirOwnWriters := by
  intro s t cmd hx
  obtain ⟨i, hdecode, he⟩ | ⟨e, -, he⟩ := execWord_cases hx
  · simp only [hdecode, ne_eq, Except.ok.injEq]
    exact ⟨exec_ckacc he, exec_tdata he⟩
  · obtain ⟨-, rfl⟩ | ⟨-, rfl⟩ := execIllegal_cases he <;> exact ⟨fun _ _ => rfl, fun _ => rfl⟩

/-! ### The sticky flags -/

/-- The command starts a new stream on a block with parameter `c` (R71, R66). -/
def BeginsStream (c : Config) (i : Instr) : Prop :=
  i = .srst ∨ ∃ w, i = .cfg w ∧ w.toNat ≤ c.maxWindow.toNat

theorem startsStream_of_decode_ok {cmd : Word} {i : Instr} (h : decode cmd = .ok i) (c : Config) :
    startsStream c cmd = false ↔ ¬ BeginsStream c i := by
  cases i <;> simp [startsStream, h, BeginsStream]

theorem startsStream_of_decode_error {cmd : Word} {e : DecodeError} (h : decode cmd = .error e) (c : Config) :
    startsStream c cmd = false := by
  simp [startsStream, h]

/-- R26 for a command `i` that takes `s` to `t`. -/
structure FlagsFollow (i : Instr) (s t : State) : Prop where
  illegal : t.errIllegal = true ↔ s.errIllegal = true ∧ i ≠ .clrerr
  wsize : t.errWsize = true ↔
    (∃ w, i = .cfg w ∧ s.config.maxWindow.toNat < w.toNat) ∨ (s.errWsize = true ∧ i ≠ .clrerr)
  count : t.errCount = true ↔
    (∃ b, i = .push b ∧ s.count.toNat = 2 ^ 64 - 1) ∨ (s.errCount = true ∧ ¬ BeginsStream s.config i)
  fatal : t.errFatal = true ↔
    (∃ b, i = .push b) ∧ s.count.toNat < 2 ^ 64 - 1 ∧ 1 ≤ s.wsize.toNat ∧ s.PushBreaches

/-- `ERR_COUNT` after a `PUSH`: raised at the limit, otherwise as before. -/
theorem execPush_errCount {b : Byte} {s t : State} (hf : s.errFatal = false) (h : execPush b s = .next t) :
    t.errCount = true ↔ s.count.toNat = 2 ^ 64 - 1 ∨ s.errCount = true := by
  obtain ⟨-, hc, rfl⟩ | ⟨-, hc, -, rfl⟩ | ⟨-, hc, -, -, rfl⟩ | ⟨-, hc, -, -, _, -, rfl⟩ | ⟨-, hc, -, -, -, -, _, -, rfl⟩ |
    ⟨-, hc, -, rfl, -⟩ := (execPush_cases h).resolve_left (by simp [hf])
  · exact iff_of_true rfl (.inl hc)
  all_goals exact (or_iff_right hc).symm

theorem exec_flagsFollow {i : Instr} {s t : State} (hf : s.errFatal = false) (he : exec i s = .next t) :
    FlagsFollow i s t := by
  cases i with
  | nop => rw [execNop_cases he]; constructor <;> simp [hf, BeginsStream]
  | cfg w =>
    obtain ⟨-, hw, rfl⟩ | ⟨-, hw, rfl⟩ := (execCfg_cases he).resolve_left (by simp [hf])
    · constructor <;> simp [hf, BeginsStream, hw]
    · constructor <;> simp [hf, BeginsStream, hw]
  | push b =>
    obtain ⟨-, -, -, -, -, hillegal, hwsize, -⟩ := execPush_frame he
    constructor
    · simp [hillegal]
    · simp [hwsize]
    · simp [execPush_errCount hf he, BeginsStream]
    · simp [execPush_errFatal hf he]
  | srst =>
    obtain ⟨-, rfl⟩ := (execSrst_cases he).resolve_left (by simp [hf])
    constructor <;> simp [hf, BeginsStream]
  | ckinit =>
    obtain ⟨-, rfl⟩ := (execCkinit_cases he).resolve_left (by simp [hf])
    constructor <;> simp [hf, BeginsStream]
  | ckbyte b =>
    obtain ⟨-, rfl⟩ := (execCkbyte_cases he).resolve_left (by simp [hf])
    constructor <;> simp [hf, BeginsStream]
  | rdtab sel i =>
    obtain ⟨-, rfl⟩ := (execRdtab_cases he).resolve_left (by simp [hf])
    constructor <;> simp [hf, BeginsStream]
  | clrerr =>
    obtain ⟨-, rfl⟩ := (execClrerr_cases he).resolve_left (by simp [hf])
    constructor <;> simp [hf, BeginsStream]

/-- Settles O32: a command by its own rule, an illegal word by R49. -/
theorem stickyFlagsAreSetAndClearedAsR26Says : Obligations.StickyFlagsAreSetAndClearedAsR26Says := by
  intro s t cmd hf hx
  obtain ⟨i, hdecode, he⟩ | ⟨e, hdecode, he⟩ := execWord_cases hx
  · have hflags := exec_flagsFollow hf he
    simp only [hdecode, ne_eq, Except.ok.injEq, reduceCtorEq, exists_false, false_or, startsStream_of_decode_ok hdecode]
    exact ⟨hflags.illegal, hflags.wsize, hflags.count, hflags.fatal⟩
  · obtain ⟨-, rfl⟩ := (execIllegal_cases he).resolve_left (by simp [hf])
    simp [hdecode, hf, startsStream_of_decode_error hdecode]

end Sys2Proof.Machine
end

section
/-! PROOFS. The computed status and the read port (10_state.md R28 to R30). -/

namespace Sys2Proof.Machine

/-! ### The phase -/

theorem phase_of_zeroWindow {s : State} (h : s.wsize.toNat = 0) : s.phase = .zeroWindow := if_pos h

theorem phase_of_filling {s : State} (h : s.count.toNat < s.wsize.toNat) : s.phase = .filling :=
  (if_neg (Nat.ne_zero_of_lt h)).trans (if_pos h)

theorem phase_of_full {s : State} (hw : 1 ≤ s.wsize.toNat) (h : s.wsize.toNat ≤ s.count.toNat) : s.phase = .full :=
  (if_neg (Nat.ne_zero_of_lt hw)).trans (if_neg (Nat.not_lt.2 h))

/-- Only the full phase of R29 is `FULL`. -/
theorem phase_eq_full {s : State} (h : s.phase = .full) : 1 ≤ s.wsize.toNat ∧ s.wsize.toNat ≤ s.count.toNat := by
  obtain hw | hw := Nat.eq_zero_or_pos s.wsize.toNat
  · simp [phase_of_zeroWindow hw] at h
  · obtain hlt | hfull := Nat.lt_or_ge s.count.toNat s.wsize.toNat
    · simp [phase_of_filling hlt] at h
    · exact ⟨hw, hfull⟩

theorem Phase.code_ne_three (p : Phase) : p.code ≠ 0b11 := by
  cases p <;> decide

/-- Settles O37: one case of R29 each; the invariants say that a full window has its open CRC. -/
theorem phaseFollowsCountAgainstWindowSize : Obligations.PhaseFollowsCountAgainstWindowSize := by
  intro s
  exact ⟨fun hw => by rw [phase_of_zeroWindow hw]; rfl, fun _ hlt => by rw [phase_of_filling hlt]; rfl,
    fun hw hfull => by rw [phase_of_full hw hfull]; rfl, s.phase.code_ne_three,
    fun hinv hfull => hinv.stream.lastValid_iff.2 (phase_eq_full hfull)⟩

/-! ### The read port -/

/-- `STATUS` can be read at any time (R105). -/
theorem readPort_status (s : State) : readPort s 0x00 = s.status := by
  simp [readPort, portReg?, portNumber, State.portValue]

/-- At a step boundary a register number reads its register (R30). -/
theorem readPort_of_portReg {s : State} (hbusy : s.busy = false) {r : RegNumber} {reg : PortReg} (h : portReg? r = some reg) :
    readPort s r = s.portValue reg := by
  simp [readPort, hbusy, h]

/-- A reserved register number reads 0 (R30). -/
theorem readPort_reserved {s : State} (hbusy : s.busy = false) {r : RegNumber} (h : 0x0B ≤ r.toNat) : readPort s r = 0 := by
  have hnone : portReg? r = none := List.getElem?_eq_none h
  simp [readPort, hbusy, hnone]

/-- Settles O38: each number of R30's list has its register, every other number none. -/
theorem readPortMapIsThatOfR30 : Obligations.ReadPortMapIsThatOfR30 := by
  intro s hbusy
  have hport := @readPort_of_portReg s hbusy
  exact ⟨hport (reg := .status) rfl, hport (reg := .result) rfl, hport (reg := .rposLo) rfl, hport (reg := .rposHi) rfl,
    hport (reg := .ckresult) rfl, hport (reg := .wsize) rfl, hport (reg := .countLo) rfl, hport (reg := .countHi) rfl,
    hport (reg := .cursor) rfl, hport (reg := .tdata) rfl, hport (reg := .maxwin) rfl, fun _ => readPort_reserved hbusy⟩

/-! ### `STATUS` -/

/-- A flag at bit `n` of a word has that one bit (R28). -/
theorem flagBit_shiftLeft_getLsbD (f : Bool) {n : Nat} (hn : n < 32) (k : Nat) :
    (flagBit f <<< n).getLsbD k = (decide (k = n) && f) := by
  by_cases hk : k = n
  · subst hk; simp [flagBit, hn]
  · have hoff : k < n ∨ 1 ≤ k - n := by omega
    obtain hlt | hge := hoff
    · simp [hk, hlt]
    · simp [flagBit, hk, BitVec.getLsbD_of_ge _ _ hge]

theorem phaseCode_shiftLeft_getLsbD (p : Phase) (k : Nat) :
    (p.code.setWidth 32 <<< 2).getLsbD k = (decide (2 ≤ k) && p.code.getLsbD (k - 2)) := by
  obtain hlt | hge := Nat.lt_or_ge k 2
  · simp [hlt, Nat.not_le.2 hlt]
  · obtain hlt32 | hge32 := Nat.lt_or_ge k 32
    · simp [hge, hlt32, Nat.not_lt.2 hge]
    · simp [Nat.not_lt.2 hge32, BitVec.getLsbD_of_ge p.code (k - 2) (by omega)]

/-- The bits of `STATUS` (R28). -/
theorem status_getLsbD (s : State) (k : Nat) : s.status.getLsbD k =
    (decide (k = 0) && s.rvalid || decide (k = 1) && s.busy || decide (2 ≤ k) && s.phase.code.getLsbD (k - 2) ||
      decide (k = 4) && s.errIllegal || decide (k = 5) && s.errWsize || decide (k = 6) && s.errCount ||
      decide (k = 7) && s.errFatal) := by
  have hrvalid : (flagBit s.rvalid).getLsbD k = (decide (k = 0) && s.rvalid) := by
    simpa using flagBit_shiftLeft_getLsbD s.rvalid (n := 0) (by decide) k
  simp only [State.status, BitVec.getLsbD_or, hrvalid, phaseCode_shiftLeft_getLsbD, Nat.reduceLT, flagBit_shiftLeft_getLsbD]

/-- `STATUS[31:8]` is zero (R28). -/
theorem status_getLsbD_of_ge (s : State) {k : Nat} (h : 8 ≤ k) : s.status.getLsbD k = false := by
  have hne (n : Nat) (hn : n < 8) : k ≠ n := by omega
  rw [status_getLsbD, BitVec.getLsbD_of_ge s.phase.code (k - 2) (by omega)]
  simp [hne]

theorem status_hardwareReset (s : State) : (hardwareReset s).status = 0 := by
  simp [State.status, flagBit, phase_of_zeroWindow (s := hardwareReset s) rfl, Phase.code]

/-- Settles O36: `STATUS` bit by bit. -/
theorem statusWordHasTheLayoutOfR28 : Obligations.StatusWordHasTheLayoutOfR28 := by
  intro s
  simp only [readPort_status]
  refine ⟨?_, ?_, ?_, ?_, ?_, ?_, ?_, ?_, rfl, status_hardwareReset s⟩
  case refine_3 =>
    ext k hk
    rw [BitVec.getElem_extractLsb', status_getLsbD]
    obtain rfl | rfl : k = 0 ∨ k = 1 := by omega
    · simp
    · simp
  case refine_8 =>
    ext k hk
    rw [BitVec.getElem_extractLsb', status_getLsbD_of_ge s (by omega), BitVec.ofNat_eq_ofNat, BitVec.getElem_zero]
  all_goals rw [status_getLsbD]; simp

end Sys2Proof.Machine
end

section
/-! PROOFS. The rows of the opcode map: at most one matches a word, and it decides the word's command (30_encoding.md R48, R49). -/

namespace Sys2Proof

/-- Every mask of R48 covers `OP`, so a row that matches a word has the word's opcode (R49, last sentence). -/
theorem opField_of_matches {r : OpcodeRow} {cmd : Word} (hr : r ∈ opcodeTable) (h : r.matches cmd = true) :
    opField cmd = opField r.pattern := by
  have hmask : ∀ r ∈ opcodeTable, opField r.mask = BitVec.allOnes 4 := by decide
  calc opField cmd = opField cmd &&& opField r.mask := by rw [hmask r hr, BitVec.and_allOnes]
    _ = opField (cmd &&& r.mask) := BitVec.extractLsb'_and.symm
    _ = opField r.pattern := congrArg opField (beq_iff_eq.1 h)

theorem nodup_opField_pattern : (opcodeTable.map fun r => opField r.pattern).Nodup := by decide

theorem row_eq_of_opField_eq {r r' : OpcodeRow} (hr : r ∈ opcodeTable) (hr' : r' ∈ opcodeTable)
    (h : opField r.pattern = opField r'.pattern) : r = r' :=
  List.inj_on_of_nodup_map nodup_opField_pattern hr hr' h

/-- The last sentence of R49: at most one row of R48 matches a word. -/
theorem row_eq_of_matches {cmd : Word} {r r' : OpcodeRow} (hr : r ∈ opcodeTable) (hr' : r' ∈ opcodeTable)
    (h : r.matches cmd = true) (h' : r'.matches cmd = true) : r = r' :=
  row_eq_of_opField_eq hr hr' ((opField_of_matches hr h).symm.trans (opField_of_matches hr' h'))

/-- Settles O4: the eight opcodes are distinct and every mask covers them. -/
theorem atMostOneOpcodeRowMatches : Obligations.AtMostOneOpcodeRowMatches :=
  ⟨nodup_opField_pattern, by decide, fun _ _ _ hr hr' => row_eq_of_matches hr hr'⟩

/-! ### A command and its row -/

theorem Instr.row_mem (i : Instr) : i.row ∈ opcodeTable := by
  cases i <;> simp [Instr.row, opcodeTable]

/-- Every row of R48 is some command's. -/
theorem exists_row_eq {r : OpcodeRow} (hr : r ∈ opcodeTable) : ∃ i : Instr, i.row = r := by
  simp only [opcodeTable, List.mem_cons, List.not_mem_nil, or_false] at hr
  obtain rfl | rfl | rfl | rfl | rfl | rfl | rfl | rfl := hr
  exacts [⟨.nop, rfl⟩, ⟨.cfg 0, rfl⟩, ⟨.push 0, rfl⟩, ⟨.srst, rfl⟩, ⟨.ckinit, rfl⟩, ⟨.ckbyte 0, rfl⟩, ⟨.rdtab .base 0, rfl⟩,
    ⟨.clrerr, rfl⟩]

/-- The command of the same row with the operand fields of a word (R47). -/
def Instr.withFields (cmd : Word) : Instr → Instr
  | .nop => .nop
  | .cfg _ => .cfg (windowField cmd)
  | .push _ => .push (byteField cmd)
  | .srst => .srst
  | .ckinit => .ckinit
  | .ckbyte _ => .ckbyte (byteField cmd)
  | .rdtab _ _ => .rdtab (selectField cmd) (indexField cmd)
  | .clrerr => .clrerr

/-- A word that matches a command's row decodes to that row's command, with the word's fields (R49). -/
theorem decode_of_row_matches {i : Instr} {cmd : Word} (h : i.row.matches cmd = true) :
    decode cmd = .ok (i.withFields cmd) := by
  have hrows (r : OpcodeRow) (hr : r ∈ opcodeTable) : r.matches cmd = decide (r = i.row) :=
    Bool.eq_iff_iff.2 ⟨fun hm => decide_eq_true (row_eq_of_matches hr i.row_mem hm h), fun heq => of_decide_eq_true heq ▸ h⟩
  simp only [opcodeTable, List.forall_mem_cons] at hrows
  cases i <;>
  · simp only [decode, hrows]
    rfl

/-- What the decoder answers (R49): the command of the row that matches, with the word's fields, or an error when none does. -/
theorem decode_cases (cmd : Word) :
    (∃ i : Instr, i.row.matches cmd = true ∧ decode cmd = .ok (i.withFields cmd)) ∨
    ((∀ r ∈ opcodeTable, r.matches cmd = false) ∧ ∃ e, decode cmd = .error e) := by
  by_cases h : ∃ r ∈ opcodeTable, r.matches cmd = true
  · obtain ⟨r, hr, hm⟩ := h
    obtain ⟨i, rfl⟩ := exists_row_eq hr
    exact .inl ⟨i, hm, decode_of_row_matches hm⟩
  · have hnone : ∀ r ∈ opcodeTable, r.matches cmd = false := by simpa using h
    refine .inr ⟨hnone, ?_⟩
    simp only [opcodeTable, List.forall_mem_cons] at hnone
    simp only [decode, hnone, Bool.false_eq_true, if_false]
    split
    · exact ⟨_, rfl⟩
    · exact ⟨_, rfl⟩

@[simp] theorem Instr.row_withFields (cmd : Word) (i : Instr) : (i.withFields cmd).row = i.row := by cases i <;> rfl

@[simp] theorem Instr.withFields_withFields (a b : Word) (i : Instr) : (i.withFields b).withFields a = i.withFields a := by
  cases i <;> rfl

/-- A word decodes to a command exactly when it matches the command's row and has its operands in the fields (R47, R48). -/
theorem decode_eq_ok_iff {cmd : Word} {i : Instr} :
    decode cmd = .ok i ↔ i.row.matches cmd = true ∧ i.withFields cmd = i := by
  constructor
  · intro h
    obtain ⟨j, hm, hj⟩ | ⟨-, e, he⟩ := decode_cases cmd
    · obtain rfl : j.withFields cmd = i := Except.ok.inj (hj.symm.trans h)
      simpa using hm
    · simp [h] at he
  · rintro ⟨hm, hi⟩
    rw [decode_of_row_matches hm, hi]

/-- A word is legal exactly when a row of R48 matches. -/
theorem exists_decode_eq_ok_iff {cmd : Word} : (∃ i, decode cmd = .ok i) ↔ ∃ r ∈ opcodeTable, r.matches cmd = true := by
  constructor
  · rintro ⟨i, hi⟩
    exact ⟨i.row, i.row_mem, (decode_eq_ok_iff.1 hi).1⟩
  · rintro ⟨r, hr, hm⟩
    obtain ⟨i, rfl⟩ := exists_row_eq hr
    exact ⟨_, decode_of_row_matches hm⟩

theorem OpcodeRow.matches_iff {r : OpcodeRow} {cmd : Word} : r.matches cmd = true ↔ cmd &&& r.mask = r.pattern := beq_iff_eq

theorem selectField_eq_iff {cmd : Word} {sel : TableSel} : selectField cmd = sel ↔ (cmd.getLsbD 8 = true ↔ sel = .roll) := by
  unfold selectField
  cases sel <;> simp

/-- `decode_eq_ok_iff` with the match written out, for a command whose operands are the word's fields when `P` holds. -/
theorem decode_eq_ok_iff_and {cmd : Word} (i : Instr) {P : Prop} (hfields : i.withFields cmd = i ↔ P) :
    decode cmd = .ok i ↔ cmd &&& i.row.mask = i.row.pattern ∧ P :=
  decode_eq_ok_iff.trans (and_congr OpcodeRow.matches_iff hfields)

/-- `decode_eq_ok_iff` for a command of format Z. -/
theorem decode_eq_ok_iff_of_no_operand {cmd : Word} (i : Instr) (hfields : i.withFields cmd = i) :
    decode cmd = .ok i ↔ cmd &&& i.row.mask = i.row.pattern :=
  (decode_eq_ok_iff_and i (iff_of_true hfields trivial)).trans (and_iff_left trivial)

/-- Settles O3: each clause is `decode_eq_ok_iff` for one command, the last `exists_decode_eq_ok_iff` over the table. -/
theorem opcodeMapIsThatOfR48 : Obligations.OpcodeMapIsThatOfR48 := by
  intro cmd
  refine ⟨decode_eq_ok_iff_of_no_operand .nop rfl, fun w => decode_eq_ok_iff_and (.cfg w) ?_,
    fun b => decode_eq_ok_iff_and (.push b) ?_, decode_eq_ok_iff_of_no_operand .srst rfl,
    decode_eq_ok_iff_of_no_operand .ckinit rfl, fun b => decode_eq_ok_iff_and (.ckbyte b) ?_,
    fun sel i => decode_eq_ok_iff_and (.rdtab sel i) ?_, decode_eq_ok_iff_of_no_operand .clrerr rfl, ?_⟩
  · rw [Instr.withFields, Instr.cfg.injEq, eq_comm]; rfl
  · rw [Instr.withFields, Instr.push.injEq, eq_comm]; rfl
  · rw [Instr.withFields, Instr.ckbyte.injEq, eq_comm]; rfl
  · rw [Instr.withFields, Instr.rdtab.injEq, selectField_eq_iff, eq_comm (a := indexField cmd)]; rfl
  · rw [exists_decode_eq_ok_iff]
    simp only [opcodeTable, List.exists_mem_cons_iff, List.not_mem_nil, false_and, exists_false, or_false, OpcodeRow.matches_iff]
    rfl

end Sys2Proof
end

section
/-! PROOFS. Encoding: a row and the operand fields determine a word; the reserved bits of each format (30_encoding.md R46, R47,
R49). -/

namespace Sys2Proof

/-! ### The word of a command -/

/-- The word of a command belongs to the command's row. -/
theorem row_matches_encode (i : Instr) : i.row.matches (encode i) = true := by
  rw [OpcodeRow.matches_iff]
  cases i with
  | nop => exact Laws.RowMatch.nop
  | cfg w => exact Laws.RowMatch.cfg w
  | push b => exact Laws.RowMatch.push b
  | srst => exact Laws.RowMatch.srst
  | ckinit => exact Laws.RowMatch.ckinit
  | ckbyte b => exact Laws.RowMatch.ckbyte b
  | rdtab sel i => exact Laws.RowMatch.rdtab sel i
  | clrerr => exact Laws.RowMatch.clrerr

/-- An operand or-ed into a field that is 0 is what the field holds. -/
theorem extractLsb'_or_setWidth {n : Nat} {p : Word} (x : BitVec n) (hn : n ≤ 32) (hp : p.extractLsb' 0 n = 0#n) :
    (p ||| x.setWidth 32).extractLsb' 0 n = x := by
  rw [BitVec.extractLsb'_or, hp, BitVec.zero_or, BitVec.extractLsb'_setWidth_of_le (by omega)]
  exact BitVec.extractLsb'_eq_self

/-- A command's operands are in the fields of its word (R47). -/
theorem withFields_encode (i : Instr) : i.withFields (encode i) = i := by
  cases i with
  | nop => rfl
  | cfg w => exact congrArg Instr.cfg (extractLsb'_or_setWidth w (by decide) (by decide))
  | push b => exact congrArg Instr.push (extractLsb'_or_setWidth b (by decide) (by decide))
  | srst => rfl
  | ckinit => rfl
  | ckbyte b => exact congrArg Instr.ckbyte (extractLsb'_or_setWidth b (by decide) (by decide))
  | rdtab sel i =>
    have hselect : selectField (encode (.rdtab sel i)) = sel := by
      rw [selectField_eq_iff]
      cases sel <;> simp [encode, BitVec.getLsbD_of_ge]
    have hindex : indexField (encode (.rdtab sel i)) = i := by
      cases sel <;> exact extractLsb'_or_setWidth i (by decide) (by decide)
    exact congrArg₂ Instr.rdtab hselect hindex
  | clrerr => rfl

/-- Settles O1: the word matches the command's row and has its operands in the fields. -/
theorem encodedCommandDecodesToItself : Obligations.EncodedCommandDecodesToItself :=
  fun i => decode_eq_ok_iff.2 ⟨row_matches_encode i, withFields_encode i⟩

/-! ### The mask of a row as a field boundary -/

/-- A mask of R48 covers the bits above the operand (R46). -/
theorem Instr.row_mask (i : Instr) : i.row.mask = BitVec.allOnes 32 <<< i.operandBits := by
  cases i <;>
  · simp only [Instr.row, Instr.operandBits]
    decide

theorem Instr.operandBits_le (i : Instr) : i.operandBits ≤ 24 := by
  cases i <;> simp [Instr.operandBits]

/-- A match of R48 is an opcode over zeros. -/
theorem Instr.getLsbD_row_pattern (i : Instr) {k : Nat} (hk : k < 28) : i.row.pattern.getLsbD k = false := by
  have hzero : ∀ r ∈ opcodeTable, r.pattern.extractLsb' 0 28 = 0 := by decide
  simpa [hk] using congrArg (·.getLsbD k) (hzero i.row i.row_mem)

/-- A row matches a word exactly when they agree above the operand. -/
theorem row_matches_iff_getLsbD {i : Instr} {cmd : Word} :
    i.row.matches cmd = true ↔ ∀ k < 32, i.operandBits ≤ k → cmd.getLsbD k = i.row.pattern.getLsbD k := by
  have hmask (k : Nat) (hk : k < 32) : (cmd &&& i.row.mask).getLsbD k = (cmd.getLsbD k && decide (i.operandBits ≤ k)) := by
    rw [Instr.row_mask, BitVec.getLsbD_and, BitVec.getLsbD_shiftLeft, BitVec.getLsbD_allOnes]
    simp only [hk, show k - i.operandBits < 32 by omega, decide_true, Bool.true_and, Bool.and_true, ← decide_not, Nat.not_lt]
  have hbits := i.operandBits_le
  rw [OpcodeRow.matches_iff]
  constructor
  · intro h k hk hle
    rw [← h, hmask k hk, decide_eq_true hle, Bool.and_true]
  · intro h
    refine BitVec.eq_of_getLsbD_eq fun k hk => ?_
    rw [hmask k hk]
    obtain hlt | hle := Nat.lt_or_ge k i.operandBits
    · rw [decide_eq_false (Nat.not_le.2 hlt), Bool.and_false, i.getLsbD_row_pattern (by omega)]
    · rw [decide_eq_true hle, Bool.and_true, h k hk hle]

/-- Words agree on a field exactly when they agree on its bits. -/
theorem extractLsb'_eq_iff_getLsbD {start len : Nat} {a b : Word} :
    a.extractLsb' start len = b.extractLsb' start len ↔ ∀ k < len, a.getLsbD (start + k) = b.getLsbD (start + k) := by
  constructor
  · intro h k hk
    simpa [hk] using congrArg (·.getLsbD k) h
  · intro h
    refine BitVec.eq_of_getLsbD_eq fun k hk => ?_
    simpa [hk] using h k hk

/-- R46: a row matches a word exactly when the word has the row's opcode and the format's reserved bits are 0. -/
theorem row_matches_iff_fields {i : Instr} {cmd : Word} :
    i.row.matches cmd = true ↔
      opField cmd = opField i.row.pattern ∧ cmd.extractLsb' i.operandBits (28 - i.operandBits) = 0 := by
  have hreserved : i.row.pattern.extractLsb' i.operandBits (28 - i.operandBits) = 0 := by
    refine BitVec.eq_of_getLsbD_eq fun k hk => ?_
    simp [hk, i.getLsbD_row_pattern (show i.operandBits + k < 28 by omega)]
  rw [← hreserved, row_matches_iff_getLsbD, opField, opField, extractLsb'_eq_iff_getLsbD, extractLsb'_eq_iff_getLsbD]
  have hle := i.operandBits_le
  constructor
  · intro h
    exact ⟨fun k hk => h _ (by omega) (by omega), fun k hk => h _ (by omega) (by omega)⟩
  · rintro ⟨hop, hres⟩ k hk hlek
    obtain hlt | hge := Nat.lt_or_ge k 28
    · have := hres (k - i.operandBits) (by omega)
      rwa [Nat.add_sub_cancel' hlek] at this
    · have := hop (k - 28) (by omega)
      rwa [Nat.add_sub_cancel' hge] at this

/-- The operands of a command are all the bits below its mask. -/
theorem getLsbD_eq_of_withFields_eq {i : Instr} {a b : Word} (h : i.withFields a = i.withFields b) {k : Nat}
    (hk : k < i.operandBits) : a.getLsbD k = b.getLsbD k := by
  have hfield {n : Nat} (hn : a.extractLsb' 0 n = b.extractLsb' 0 n) (hkn : k < n) : a.getLsbD k = b.getLsbD k := by
    simpa using extractLsb'_eq_iff_getLsbD.1 hn k hkn
  cases i with
  | nop => exact absurd hk (Nat.not_lt_zero k)
  | cfg w => exact hfield (Instr.cfg.inj h) hk
  | push b => exact hfield (Instr.push.inj h) hk
  | srst => exact absurd hk (Nat.not_lt_zero k)
  | ckinit => exact absurd hk (Nat.not_lt_zero k)
  | ckbyte b => exact hfield (Instr.ckbyte.inj h) hk
  | rdtab sel i =>
    obtain ⟨hselect, hindex⟩ := Instr.rdtab.inj h
    obtain hlt | rfl : k < 8 ∨ k = 8 := by simp only [Instr.operandBits] at hk; omega
    · exact hfield hindex hlt
    · rw [Bool.eq_iff_iff, selectField_eq_iff.1 hselect, selectField_eq_iff.1 rfl]
  | clrerr => exact absurd hk (Nat.not_lt_zero k)

/-- The row and the operand fields determine the word. -/
theorem eq_of_row_matches {i : Instr} {a b : Word} (ha : i.row.matches a = true) (hb : i.row.matches b = true)
    (h : i.withFields a = i.withFields b) : a = b := by
  refine BitVec.eq_of_getLsbD_eq fun k hk => ?_
  obtain hlt | hle := Nat.lt_or_ge k i.operandBits
  · exact getLsbD_eq_of_withFields_eq h hlt
  · rw [row_matches_iff_getLsbD.1 ha k hk hle, row_matches_iff_getLsbD.1 hb k hk hle]

/-- Settles O2: the word and the encoding of its command match one row and have the same operands. -/
theorem decodedWordIsTheEncodingOfItsCommand : Obligations.DecodedWordIsTheEncodingOfItsCommand := by
  intro cmd i h
  obtain ⟨hm, hi⟩ := decode_eq_ok_iff.1 h
  exact eq_of_row_matches (row_matches_encode i) hm ((withFields_encode i).trans hi.symm)

/-! ### Illegal words -/

/-- A reserved opcode has no row (R48). -/
theorem exists_decode_eq_error_of_reserved_opcode {cmd : Word} (hop : 8 ≤ (opField cmd).toNat) :
    ∃ e, decode cmd = .error e := by
  have hsmall : ∀ r ∈ opcodeTable, (opField r.pattern).toNat < 8 := by decide
  obtain ⟨i, hm, -⟩ | ⟨-, herror⟩ := decode_cases cmd
  · have := hsmall i.row i.row_mem
    rw [← opField_of_matches i.row_mem hm] at this
    omega
  · exact herror

/-- Among the words with a command's opcode, the illegal ones are those with a reserved bit of its format set (R49). -/
theorem exists_decode_eq_error_iff (i : Instr) {cmd : Word} (hop : opField cmd = opField i.row.pattern) :
    (∃ e, decode cmd = .error e) ↔ cmd.extractLsb' i.operandBits (28 - i.operandBits) ≠ 0 := by
  obtain ⟨j, hm, hj⟩ | ⟨hnone, herror⟩ := decode_cases cmd
  · have hrow : j.row = i.row := row_eq_of_opField_eq j.row_mem i.row_mem ((opField_of_matches j.row_mem hm).symm.trans hop)
    have hzero := (row_matches_iff_fields.1 (hrow ▸ hm)).2
    simp [hj, hzero]
  · refine iff_of_true herror fun hzero => ?_
    exact Bool.eq_false_iff.1 (hnone i.row i.row_mem) (row_matches_iff_fields.2 ⟨hop, hzero⟩)

theorem opcode_cases (op : BitVec 4) :
    8 ≤ op.toNat ∨ op = 0 ∨ op = 1 ∨ op = 2 ∨ op = 3 ∨ op = 4 ∨ op = 5 ∨ op = 6 ∨ op = 7 := by
  revert op; decide

/-- Settles O5: a reserved opcode has no row; below it, by opcode, `exists_decode_eq_error_iff` for the row's command. -/
theorem illegalWordsHaveReservedOpcodeOrReservedBits : Obligations.IllegalWordsHaveReservedOpcodeOrReservedBits := by
  intro cmd
  obtain hop | hop | hop | hop | hop | hop | hop | hop | hop := opcode_cases (opField cmd)
  · exact iff_of_true (exists_decode_eq_error_of_reserved_opcode hop) (.inl hop)
  · simp [exists_decode_eq_error_iff .nop hop, hop, Instr.operandBits]
  · simp [exists_decode_eq_error_iff (.cfg 0) hop, hop, Instr.operandBits]
  · simp [exists_decode_eq_error_iff (.push 0) hop, hop, Instr.operandBits]
  · simp [exists_decode_eq_error_iff .srst hop, hop, Instr.operandBits]
  · simp [exists_decode_eq_error_iff .ckinit hop, hop, Instr.operandBits]
  · simp [exists_decode_eq_error_iff (.ckbyte 0) hop, hop, Instr.operandBits]
  · simp [exists_decode_eq_error_iff (.rdtab .base 0) hop, hop, Instr.operandBits]
  · simp [exists_decode_eq_error_iff .clrerr hop, hop, Instr.operandBits]

end Sys2Proof
end

section
/-! PROOFS. The assembler's output, line by line (30_encoding.md R51, R52). -/

namespace Sys2Proof.Machine

/-- A line of commands is assembled to their words, unless an operand is out of range (R51). -/
theorem assembleLine_of_lineCommands {line : AsmLine} {commands : List Instr} (h : lineCommands line = some commands) :
    assembleLine line = if line.wf then some (commands.map fun i => .write (encode i)) else none := by
  simp only [assembleLine, h]

/-- A line of one command whose number `n` has the bound `limit` is assembled to the command's word (R51). -/
theorem assembleLine_of_operand {line : AsmLine} {i : Instr} {n limit : Nat} {word : Word}
    (hcommand : lineCommands line = some [i]) (hwf : line.wf = decide (n ≤ limit)) (hword : n ≤ limit → encode i = word) :
    assembleLine line = if n ≤ limit then some [.write word] else none := by
  rw [assembleLine_of_lineCommands hcommand, hwf]
  by_cases hn : n ≤ limit
  · simp [hn, hword hn]
  · simp [hn]

/-- `.word x`, the word as is (R51). -/
theorem assembleLine_word (x : Nat) :
    assembleLine (.word x) = if x ≤ 0xFFFFFFFF then some [.write (BitVec.ofNat 32 x)] else none := by
  simp [assembleLine, lineCommands, AsmLine.wf]

/-- `PUSHS` (R52): no byte of a string is out of range, so the line is never refused. -/
theorem assembleLine_pushs (bytes : List Byte) :
    assembleLine (.pushs bytes) = some (bytes.map fun b => .write (0x20000000 ||| b.setWidth 32)) := by
  rw [assembleLine_of_lineCommands rfl, List.map_map]; rfl

/-- `CKSUM` (R52). -/
theorem assembleLine_cksum (bytes : List Byte) :
    assembleLine (.cksum bytes) =
      some (.write 0x40000000 :: bytes.map fun b => .write (0x50000000 ||| b.setWidth 32)) := by
  rw [assembleLine_of_lineCommands rfl, List.map_cons, List.map_map]; rfl

/-- Settles O7: one clause per line form; the lines with a number by `assembleLine_of_operand`. -/
theorem assemblerWritesTheWordsOfR51 : Obligations.AssemblerWritesTheWordsOfR51 := by
  have hbyte (p : Word) (b : Nat) (hb : b ≤ 0xFF) : p ||| (BitVec.ofNat 8 b).setWidth 32 = p ||| BitVec.ofNat 32 b :=
    congrArg (p ||| ·) (BitVec.setWidth_ofNat_of_le_of_lt (by decide) (Nat.lt_succ_of_le hb))
  have hwindow (p : Word) (w : Nat) (hw : w ≤ 0xFFFFFF) : p ||| (BitVec.ofNat 24 w).setWidth 32 = p ||| BitVec.ofNat 32 w :=
    congrArg (p ||| ·) (BitVec.setWidth_ofNat_of_le_of_lt (by decide) (Nat.lt_succ_of_le hw))
  refine ⟨rfl, fun w => assembleLine_of_operand rfl rfl (hwindow _ w), fun b => assembleLine_of_operand rfl rfl (hbyte _ b),
    rfl, rfl, fun b => assembleLine_of_operand rfl rfl (hbyte _ b), fun i => assembleLine_of_operand rfl rfl (hbyte _ i),
    fun i => assembleLine_of_operand rfl rfl (hbyte _ i), rfl, assembleLine_word, fun w => rfl, assembleLine_pushs,
    assembleLine_cksum, rfl, rfl, rfl, rfl, rfl, rfl, rfl, rfl, rfl, rfl, rfl, rfl⟩

end Sys2Proof.Machine
end

section
/-! PROOFS. What a step at an illegal word does (30_encoding.md R49, 60_exceptions.md R92). -/

namespace Sys2Proof.Machine

/-- A word that encodes no command is carried out as `IllegalCommand` (R49). -/
theorem execWord_of_decode_error {cmd : Word} {e : DecodeError} (hdecode : decode cmd = .error e) (s : State) :
    execWord cmd s = execIllegal s := by
  simp only [execWord, hdecode]

/-- Outside the fault state an illegal word raises `ERR_ILLEGAL` (R92). -/
theorem execIllegal_of_not_fatal {s : State} (hf : s.errFatal = false) :
    execIllegal s = .next { s with errIllegal := true } :=
  unlessFatal_of_not_fatal hf _

/-- Settles O9: the block takes the word, which decodes to nothing, so it raises the one flag. -/
theorem illegalWordSetsOnlyErrIllegal : Obligations.IllegalWordSetsOnlyErrIllegal := by
  intro s cmd rest e hbusy hf hport hdecode
  calc step s = execWord cmd { s with port := rest } := step_of_command hbusy hport
    _ = execIllegal { s with port := rest } := execWord_of_decode_error hdecode _
    _ = .next { s with port := rest, errIllegal := true } := execIllegal_of_not_fatal (s := { s with port := rest }) hf

end Sys2Proof.Machine
end

section
/-! PROOFS. Eight shift steps are one byte of the update rule, and both are injective (40_crc_tables.md R54, R57, R61). -/

namespace Sys2Proof.Machine.Crc

theorem shiftSteps_eq_iterate (k : Nat) (c : Crc) : shiftSteps k c = shiftStep^[k] c := by
  induction k generalizing c with
  | zero => rfl
  | succ k ih => exact ih (shiftStep c)

/-- While the bits shifted out are 0 a step only shifts. -/
theorem shiftSteps_of_low_bits_clear {k : Nat} {c : Crc} (h : ∀ i < k, c.getLsbD i = false) : shiftSteps k c = c >>> k := by
  induction k generalizing c with
  | zero => simp [shiftSteps]
  | succ k ih =>
    have hstep : shiftStep c = c >>> 1 := by rw [shiftStep, h 0 k.succ_pos]; rfl
    have hlow : ∀ i < k, (c >>> 1).getLsbD i = false := fun i hi => by
      rw [BitVec.getLsbD_ushiftRight]; exact h (1 + i) (by omega)
    rw [shiftSteps, hstep, ih hlow, ← BitVec.shiftRight_add, Nat.add_comm]

/-- The bit a step shifts out comes back as the top bit, which `POLY` has and the shifted value has not. -/
theorem shiftStep_top_bit (c : Crc) : (shiftStep c).getLsbD 31 = c.getLsbD 0 := by
  unfold shiftStep
  split
  · next hlow =>
    rw [hlow, BitVec.getLsbD_xor, BitVec.getLsbD_ushiftRight, BitVec.getLsbD_of_ge _ _ (by decide)]
    decide
  · next hlow =>
    rw [Bool.eq_false_iff.2 hlow, BitVec.getLsbD_ushiftRight, BitVec.getLsbD_of_ge _ _ (by decide)]

theorem shiftStep_injective : Function.Injective shiftStep := by
  intro a b h
  have hlow : a.getLsbD 0 = b.getLsbD 0 := by rw [← shiftStep_top_bit, h, shiftStep_top_bit]
  have hhigh : a >>> 1 = b >>> 1 := by
    unfold shiftStep at h
    rw [hlow] at h
    split at h
    · exact (BitVec.xor_left_inj poly).1 h
    · exact h
  refine BitVec.eq_of_getLsbD_eq fun i _ => ?_
  cases i with
  | zero => exact hlow
  | succ i => simpa [Nat.add_comm] using congrArg (·.getLsbD i) hhigh

theorem shiftSteps_injective (k : Nat) : Function.Injective (shiftSteps k) := by
  rw [show shiftSteps k = shiftStep^[k] from funext (shiftSteps_eq_iterate k)]
  exact shiftStep_injective.iterate k

/-- The table lookup of R54 does eight shift steps at once: the low byte through `BASE`, the rest by the shift alone. -/
theorem upd_eq_shiftSteps (a : Crc) (c : Byte) : upd a c = shiftSteps 8 (a ^^^ c.setWidth 32) := by
  have hhigh : a >>> 8 = (a ^^^ c.setWidth 32) >>> 8 := by
    refine BitVec.eq_of_getLsbD_eq fun i _ => ?_
    simp [BitVec.getLsbD_of_ge]
  rw [upd, hhigh, baseEntry]
  generalize a ^^^ c.setWidth 32 = b
  have hsplit : b = (b.setWidth 8).setWidth 32 ^^^ (b >>> 8) <<< 8 := by
    refine BitVec.eq_of_getLsbD_eq fun i hi => ?_
    by_cases hlow : i < 8
    · simp [hi, hlow]
    · simp [hi, hlow, Nat.add_sub_cancel' (Nat.not_lt.1 hlow)]
  have hclear : shiftSteps 8 ((b >>> 8) <<< 8) = b >>> 8 := by
    rw [shiftSteps_of_low_bits_clear (by simp +contextual)]
    refine BitVec.eq_of_getLsbD_eq fun i hi => ?_
    simpa [hi] using BitVec.lt_of_getLsbD
  rw [← hclear, ← shiftSteps_xor, ← hsplit]

theorem upd_injective (c : Byte) : Function.Injective fun a => upd a c := by
  intro a b h
  simp only [upd_eq_shiftSteps] at h
  exact (BitVec.xor_left_inj _).1 (shiftSteps_injective 8 h)

theorem fold_injective (m : List Byte) : Function.Injective fun s => fold s m := by
  induction m with
  | nil => exact fun _ _ h => h
  | cons c m ih => exact fun a b h => upd_injective c (ih h)

theorem baseEntry_injective : Function.Injective baseEntry := by
  intro x y h
  simpa using congrArg (BitVec.setWidth 8) (shiftSteps_injective 8 h)

end Sys2Proof.Machine.Crc
end

section
/-! PROOFS. The algebra of the fold (40_crc_tables.md R60). -/

namespace Sys2Proof.Machine.Crc

/-- R60, L1, the entry of 0. -/
@[simp] theorem baseEntry_zero : baseEntry 0 = 0 := by decide

theorem upd_zero_left (c : Byte) : upd 0 c = baseEntry c := by
  simp [upd]

/-- R60, L2. -/
theorem upd_eq_xor_baseEntry (a : Crc) (c : Byte) : upd a c = upd a 0 ^^^ baseEntry c := by
  calc upd a c = upd (0 ^^^ a) c := congrArg (upd · c) BitVec.zero_xor.symm
    _ = upd 0 c ^^^ upd a 0 := upd_xor 0 a c
    _ = upd a 0 ^^^ baseEntry c := by rw [upd_zero_left, BitVec.xor_comm]

/-- The update rule is linear in its two arguments together. -/
theorem upd_xor_xor (a b : Crc) (c d : Byte) : upd (a ^^^ b) (c ^^^ d) = upd a c ^^^ upd b d := by
  rw [upd_xor, upd_eq_xor_baseEntry a, upd_eq_xor_baseEntry a c, upd_eq_xor_baseEntry b d, baseEntry_xor]
  ac_rfl

/-- L2's last sentence: with a byte other than 0 the update is affine and not linear. -/
theorem upd_linear_iff (c : Byte) : (∀ a b : Crc, upd (a ^^^ b) c = upd a c ^^^ upd b c) ↔ c = 0 := by
  constructor
  · intro h
    have hzero : baseEntry c = baseEntry 0 :=
      calc baseEntry c = upd (0 ^^^ 0) c := (upd_zero_left c).symm
        _ = upd 0 c ^^^ upd 0 c := h 0 0
        _ = baseEntry 0 := BitVec.xor_self
    exact baseEntry_injective hzero
  · rintro rfl a b
    exact upd_xor a b 0

/-- R60, L3. -/
@[simp] theorem zeroBytes_zero (n : Nat) : zeroBytes n 0 = 0 := by
  simpa using zeroBytes_xor n 0 0

/-- R60, L4. -/
theorem fold_eq_xor_fold_zero (s : Crc) (m : List Byte) : fold s m = zeroBytes m.length s ^^^ fold 0 m := by
  calc fold s m = fold (0 ^^^ s) m := congrArg (fold · m) BitVec.zero_xor.symm
    _ = zeroBytes m.length s ^^^ fold 0 m := by rw [fold_xor, BitVec.xor_comm]

/-- The fold is linear in the seed and the bytes together: at the seeds 0 it is L5 of R60, at the seeds `INIT` it is L6. -/
theorem fold_xor_zipWith {m n : List Byte} (h : m.length = n.length) (a b : Crc) :
    fold (a ^^^ b) (List.zipWith (· ^^^ ·) m n) = fold a m ^^^ fold b n := by
  induction m generalizing n a b with
  | nil => simp [List.length_eq_zero_iff.1 h.symm]
  | cons c m ih =>
    cases n with
    | nil => simp at h
    | cons d n =>
      simp only [List.zipWith_cons_cons, fold_cons, upd_xor_xor]
      exact ih (by simpa using h) _ _

/-- R60, L6. -/
theorem fold_init_xor_fold_init {m n : List Byte} (h : m.length = n.length) :
    fold Config.init m ^^^ fold Config.init n = fold 0 (List.zipWith (· ^^^ ·) m n) := by
  rw [← fold_xor_zipWith h, BitVec.xor_self]; rfl

/-- Settles O41: L1 to L6 by name; L6's inequality because folds of one sequence from two seeds differ. -/
theorem crcAlgebraLaws : Obligations.CrcAlgebraLaws := by
  refine ⟨baseEntry_xor, baseEntry_zero, upd_eq_xor_baseEntry, upd_xor, zeroBytes_xor, zeroBytes_zero, fold_eq_xor_fold_zero,
    fun m n h => fold_xor_zipWith h 0 0, fun m n h => ⟨fold_init_xor_fold_init h, fun heq => ?_⟩, upd_linear_iff⟩
  have hseed : (0 : Crc) = 0xFFFFFFFF := fold_injective _ ((fold_init_xor_fold_init h).symm.trans heq)
  exact absurd hseed (by decide)

end Sys2Proof.Machine.Crc
end

section
/-! PROOFS. The rolling entry's forms and its contract (40_crc_tables.md R61, R63). -/

namespace Sys2Proof.Machine.Crc

/-- Form (b)'s seed: the table index of `upd(INIT, x)` is `x XOR 0xFF`, and the rest of `INIT` is shifted and taken out. -/
theorem upd_init_xor_init (x : Byte) : upd Config.init x ^^^ Config.init = baseEntry (x ^^^ 0xFF) ^^^ 0xFF000000 := by
  have hindex : (Config.init ^^^ x.setWidth 32).setWidth 8 = x ^^^ 0xFF := by
    rw [BitVec.setWidth_xor, BitVec.xor_comm]
    simp [Config.init]
  rw [upd, hindex, BitVec.xor_assoc]
  rfl

/-- Form (c) of the rolling entry (R61): by L2, the byte `x` and the seed `INIT` go through the `w` zero bytes apart. -/
theorem rollEntry_eq_fold_zero (w : Nat) (x : Byte) : rollEntry w x = fold 0 ([x] ++ zeros w) ^^^ rollEntry w 0 := by
  have hbyte : fold 0 ([x] ++ zeros w) = zeroBytes w (baseEntry x) := by
    rw [← upd_zero_left]; rfl
  rw [hbyte, rollEntry_eq_zeroBytes, rollEntry_eq_zeroBytes, ← zeroBytes_xor, upd_eq_xor_baseEntry]
  ac_rfl

theorem rollEntry_zero (w : Nat) : rollEntry w 0 = zeroBytes w 0xD202EF8D := by
  have hseed : upd Config.init 0 ^^^ Config.init = 0xD202EF8D := by decide
  rw [rollEntry_eq_zeroBytes, hseed]

theorem rollEntry_zero_ne_zero (w : Nat) : rollEntry w 0 ≠ 0 := by
  rw [rollEntry_zero, ← zeroBytes_zero w]
  exact (fold_injective (zeros w)).ne (by decide)

/-- Settles O42: the definition and the forms (a) to (c) of R61; `Z_w` is injective, so it keeps 0xD202EF8D from 0. -/
theorem rollEntryForms : Obligations.RollEntryForms := by
  refine ⟨fun a b h => upd_injective 0 h, fun w x _ => ⟨rfl, rollEntry_eq_zeroBytes w x, ?_, rollEntry_eq_fold_zero w x,
    rollEntry_zero w, rollEntry_zero_ne_zero w⟩⟩
  rw [rollEntry_eq_zeroBytes, upd_init_xor_init]

/-- Settles O43: `upd_fold_xor_rollEntry` at the window size `|M| + 1`. -/
theorem rollingTableMeetsItsContract : Obligations.RollingTableMeetsItsContract := by
  intro w x n m hw hm
  obtain rfl : w = m.length + 1 := by omega
  exact upd_fold_xor_rollEntry x n m

end Sys2Proof.Machine.Crc
end

section
/-! PROOFS. The base table: its spot values and its second construction (40_crc_tables.md R57 to R59). -/

namespace Sys2Proof.Machine.Crc

/-- Settles O39: each value computed by the model. -/
theorem crcSpotValues : Obligations.CrcSpotValues :=
  ⟨by decide, by decide, by decide, by decide, by decide, rfl, by decide +kernel⟩

/-- Each halving step of R59 is one more shift step on `D[0x80]`. -/
theorem doublingPower_eq_iterate (j : Nat) : doublingPower j = shiftStep^[j] (baseEntry 0x80) := by
  induction j with
  | zero => rfl
  | succ j ih => rw [Function.iterate_succ_apply', ← ih]; rfl

/-- The shift steps of the halving and of the bit-serial construction commute, and `7 - k` of them take bit 7 to bit `k`. -/
theorem doublingPower_eq_baseEntry {k : Nat} (hk : k < 8) : doublingPower (7 - k) = baseEntry (BitVec.twoPow 8 k) := by
  have hbit : shiftSteps (7 - k) ((0x80 : Byte).setWidth 32) = (BitVec.twoPow 8 k).setWidth 32 := by
    decide +revert
  calc doublingPower (7 - k) = shiftStep^[7 - k] (shiftStep^[8] ((0x80 : Byte).setWidth 32)) := by
        rw [doublingPower_eq_iterate, baseEntry, shiftSteps_eq_iterate]
    _ = shiftStep^[8] (shiftStep^[7 - k] ((0x80 : Byte).setWidth 32)) := Function.Commute.iterate_iterate_self _ _ _ _
    _ = baseEntry (BitVec.twoPow 8 k) := by
        rw [← shiftSteps_eq_iterate, ← shiftSteps_eq_iterate, hbit, baseEntry]

/-- The XOR of the powers of two at the bits of `n` in a list of positions. -/
def xorBits (n : Byte) (positions : List Nat) : Byte :=
  positions.foldl (fun acc k => if n.getLsbD k then acc ^^^ BitVec.twoPow 8 k else acc) 0

theorem xorBits_range_succ (n : Byte) (k : Nat) :
    xorBits n (List.range (k + 1)) = xorBits n (List.range k) ^^^ if n.getLsbD k then BitVec.twoPow 8 k else 0 := by
  simp only [xorBits, List.range_succ, List.foldl_append, List.foldl_cons, List.foldl_nil]
  split <;> simp

theorem getLsbD_xorBits_range (n : Byte) {k i : Nat} (hk : k ≤ 8) :
    (xorBits n (List.range k)).getLsbD i = (decide (i < k) && n.getLsbD i) := by
  induction k with
  | zero => simp [xorBits]
  | succ k ih =>
    have hterm : (if n.getLsbD k then BitVec.twoPow 8 k else 0).getLsbD i = (decide (k = i) && n.getLsbD i) := by
      obtain rfl | hne := eq_or_ne k i
      · split <;> simp_all
      · split <;> simp [BitVec.getLsbD_twoPow, hne]
    rw [xorBits_range_succ, BitVec.getLsbD_xor, ih (by omega), hterm]
    obtain hlt | rfl | hgt := Nat.lt_trichotomy i k
    · simp [hlt, hlt.ne', Nat.lt_succ_of_lt hlt]
    · simp
    · simp [hgt.ne, Nat.not_lt.2 hgt.le, Nat.not_lt.2 (Nat.succ_le_of_lt hgt)]

/-- A byte is the XOR of the powers of two at its bits. -/
theorem xorBits_range (n : Byte) : xorBits n (List.range 8) = n :=
  BitVec.eq_of_getLsbD_eq fun i hi => by rw [getLsbD_xorBits_range n le_rfl, decide_eq_true hi, Bool.true_and]

/-- Settles O40: `BASE` is linear, so it takes the XOR of the powers of two in `n` to the XOR of their entries. -/
theorem doublingTableEqualsBitSerialTable : Obligations.DoublingTableEqualsBitSerialTable := by
  intro n
  have hpower (k : Nat) (hk : k ∈ List.range 8) : doublingPower (7 - k) = baseEntry (BitVec.twoPow 8 k) :=
    doublingPower_eq_baseEntry (List.mem_range.1 hk)
  calc doublingEntry n
      = (List.range 8).foldl (fun acc k => if n.getLsbD k then acc ^^^ baseEntry (BitVec.twoPow 8 k) else acc)
          (baseEntry 0) := by
        rw [baseEntry_zero]
        exact List.foldl_ext _ _ _ fun acc k hk => by rw [hpower k hk]
    _ = baseEntry (xorBits n (List.range 8)) := List.foldl_hom baseEntry fun x k => by
        split <;> simp only [baseEntry_xor]
    _ = baseEntry n := by rw [xorBits_range]

end Sys2Proof.Machine.Crc
end

section
/-! PROOFS. A command word by its opcode and reserved bits (30_encoding.md R49), and `RDTAB` (40_crc_tables.md R65). -/

namespace Sys2Proof.Machine

/-- A word with a command's opcode and the format's reserved bits 0 is carried out as that command, with the word's fields. -/
theorem execWord_of_reserved_clear (i : Instr) {cmd : Word} (hop : opField cmd = opField i.row.pattern)
    (h : cmd.extractLsb' i.operandBits (28 - i.operandBits) = 0) (s : State) : execWord cmd s = exec (i.withFields cmd) s :=
  execWord_of_decode_ok (decode_of_row_matches (row_matches_iff_fields.2 ⟨hop, h⟩)) s

/-- A word with a command's opcode and a reserved bit of the format 1 only sets `ERR_ILLEGAL` (R49, R92). -/
theorem execWord_of_reserved_set (i : Instr) {cmd : Word} (hop : opField cmd = opField i.row.pattern)
    (h : cmd.extractLsb' i.operandBits (28 - i.operandBits) ≠ 0) {s : State} (hf : s.errFatal = false) :
    execWord cmd s = .next { s with errIllegal := true } := by
  obtain ⟨e, he⟩ := (exists_decode_eq_error_iff i hop).2 h
  rw [execWord_of_decode_error he, execIllegal_of_not_fatal hf]

/-- `RDTAB` outside the fault state: the whole next state (R65). -/
theorem exec_rdtab {s : State} (hf : s.errFatal = false) (sel : TableSel) (i : Byte) :
    exec (.rdtab sel i) s = .next { s with tdata := s.tableEntry sel i } :=
  unlessFatal_of_not_fatal hf _

/-- `ROLL` is all zeros in the zero window (R62). -/
theorem State.Inv.rollRead_of_zeroWindow {s : State} (h : s.Inv) (hw : s.wsize = 0) (i : Byte) : s.rollRead i = 0 := by
  have hroll : s.roll = Crc.rollTable 0 := by rw [h.context.roll_eq, hw]; rfl
  rw [State.rollRead, hroll, Crc.rollTable_zero_get]

/-- Settles O19: `exec_rdtab` for each table, and the two encoding lemmas for format T. -/
theorem rdtabReadsTheSelectedTable : Obligations.RdtabReadsTheSelectedTable := by
  intro s hf
  refine ⟨fun i => ⟨exec_rdtab hf .base i, exec_rdtab hf .roll i, fun hinv hw => ?_⟩, fun cmd hop =>
    ⟨fun h => execWord_of_reserved_clear (.rdtab .base 0) hop h s, fun h => execWord_of_reserved_set (.rdtab .base 0) hop h hf⟩⟩
  rw [exec_rdtab hf, State.tableEntry, hinv.rollRead_of_zeroWindow hw]

end Sys2Proof.Machine
end

section
/-! PROOFS. Who writes the context `(WSIZE, ROLL)`, and what `CFG` does with it (41_context_and_fold.md R66, R67). -/

namespace Sys2Proof.Machine

/-- R67: a command that is not an accepted `CFG` leaves the context alone. -/
theorem exec_context {i : Instr} {s t : State} (he : exec i s = .next t)
    (hcfg : ∀ w, i = .cfg w → s.config.maxWindow.toNat < w.toNat) : t.wsize = s.wsize ∧ t.roll = s.roll := by
  cases i with
  | nop => rw [execNop_cases he]; exact ⟨rfl, rfl⟩
  | cfg w =>
    obtain ⟨-, rfl⟩ | ⟨-, -, rfl⟩ | ⟨-, haccepted, rfl⟩ := execCfg_cases he
    · exact ⟨rfl, rfl⟩
    · exact ⟨rfl, rfl⟩
    · exact absurd haccepted (Nat.not_le.2 (hcfg w rfl))
  | push b => obtain ⟨-, hwsize, hroll, -⟩ := execPush_frame he; exact ⟨hwsize, hroll⟩
  | srst => obtain ⟨-, rfl⟩ | ⟨-, rfl⟩ := execSrst_cases he <;> exact ⟨rfl, rfl⟩
  | ckinit => obtain ⟨-, rfl⟩ | ⟨-, rfl⟩ := execCkinit_cases he <;> exact ⟨rfl, rfl⟩
  | ckbyte b => obtain ⟨-, rfl⟩ | ⟨-, rfl⟩ := execCkbyte_cases he <;> exact ⟨rfl, rfl⟩
  | rdtab sel i => obtain ⟨-, rfl⟩ | ⟨-, rfl⟩ := execRdtab_cases he <;> exact ⟨rfl, rfl⟩
  | clrerr => obtain ⟨-, rfl⟩ | ⟨-, rfl⟩ := execClrerr_cases he <;> exact ⟨rfl, rfl⟩

/-- Settles O30: a command by `exec_context`; an illegal word at most raises a flag. -/
theorem onlyAcceptedCfgChangesTheContext : Obligations.OnlyAcceptedCfgChangesTheContext := by
  intro s t cmd hx hcfg
  obtain ⟨i, hdecode, he⟩ | ⟨e, -, he⟩ := execWord_cases hx
  · exact exec_context he fun w hi => hcfg w (hi ▸ hdecode)
  · obtain ⟨-, rfl⟩ | ⟨-, rfl⟩ := execIllegal_cases he <;> exact ⟨rfl, rfl⟩

/-! ### `CFG` -/

/-- A `CFG` within `MAX_WINDOW` configures (R66). -/
theorem exec_cfg_of_le {s : State} {w : WindowSize} (hf : s.errFatal = false) (hw : w.toNat ≤ s.config.maxWindow.toNat) :
    exec (.cfg w) s = .next (configure w s) :=
  (unlessFatal_of_not_fatal hf _).trans (if_neg (Nat.not_lt.2 hw))

/-- A `CFG` beyond `MAX_WINDOW` is refused (R66). -/
theorem exec_cfg_of_gt {s : State} {w : WindowSize} (hf : s.errFatal = false) (hw : s.config.maxWindow.toNat < w.toNat) :
    exec (.cfg w) s = .next (raise .windowTooLarge s) :=
  (unlessFatal_of_not_fatal hf _).trans (if_pos hw)

/-- Every entry of the table an accepted `CFG` installs (R62). -/
theorem configure_roll_get (w : WindowSize) (s : State) (x : Byte) :
    (configure w s).roll[x.toFin] = if w = 0 then 0 else Crc.rollEntry w.toNat x := by
  rw [configure_roll]
  split
  · next hzero => rw [hzero]; exact Crc.rollTable_zero_get x
  · next hne => exact Crc.rollTable_get (BitVec.toNat_ne_iff_ne.2 hne) x

/-- The phase after an accepted `CFG` (R29): the new stream has pushed nothing. -/
theorem configure_phase (w : WindowSize) (s : State) :
    (configure w s).phase = if w = 0 then .zeroWindow else .filling := by
  split
  · next hzero => exact phase_of_zeroWindow (congrArg BitVec.toNat hzero)
  · next hne => exact phase_of_filling (Nat.pos_of_ne_zero (BitVec.toNat_ne_iff_ne.2 hne))

/-- Settles O21: `exec_cfg_of_le` with the table and phase of `configure`, `exec_cfg_of_gt`, and the two encoding lemmas for
format W. -/
theorem cfgConfiguresOrRefuses : Obligations.CfgConfiguresOrRefuses := by
  intro s hf
  refine ⟨fun w hw => ?_, fun w hw => exec_cfg_of_gt hf hw, fun cmd hop =>
    ⟨fun h => execWord_of_reserved_clear (.cfg 0) hop h s, fun h => execWord_of_reserved_set (.cfg 0) hop h hf⟩⟩
  exact ⟨configure w s, exec_cfg_of_le hf hw, rfl, configure_roll_get w s, fun _ => rfl, configure_phase w s⟩

end Sys2Proof.Machine
end

section
/-! PROOFS. In a state that meets the invariants every command answers a next state (42_engine.md R75, 60_exceptions.md R88). -/

namespace Sys2Proof.Machine

/-- A slot below the window size exists (R14, R17). -/
theorem State.ContextInv.slotExists {s : State} (h : s.ContextInv) {slot : Nat} (hslot : slot < s.wsize.toNat) :
    s.slotExists slot = true :=
  (slotExists_iff s slot).2 (Nat.lt_of_lt_of_le hslot h.wsize_le)

theorem pushFirstFull_completes {s : State} (b : Byte) (n : Nat) (hslot : s.slotExists (s.wsize.toNat - 1) = true) :
    ∃ t, pushFirstFull b n s = .next t := by
  rw [pushFirstFull]
  simp only [hslot, if_true]
  split
  · exact ⟨_, rfl⟩
  · exact ⟨_, rfl⟩

theorem pushRolling_completes {s : State} (b : Byte) (n : Nat) (hslot : s.slotExists s.cursor.toNat = true) :
    ∃ t, pushRolling b n s = .next t := by
  rw [pushRolling]
  simp only [hslot, if_true]
  split
  · exact ⟨_, rfl⟩
  · split
    · exact ⟨_, rfl⟩
    · exact ⟨_, rfl⟩

/-- `PUSH` stops only at an absent slot (log 6), and under the invariants it reaches none. -/
theorem execPush_completes {s : State} (h : s.Inv) (b : Byte) : ∃ t, execPush b s = .next t := by
  have hslot {slot : Nat} := h.context.slotExists (slot := slot)
  rw [execPush, unlessFatal_of_not_fatal h.context.not_fatal]
  dsimp only
  split_ifs with hlimit hzero hfilling hfirst
  · exact ⟨_, rfl⟩
  · exact ⟨_, rfl⟩
  · exact ⟨_, if_pos (hslot (by omega))⟩
  · exact pushFirstFull_completes b _ (hslot (by omega))
  · exact pushRolling_completes b _ (hslot (h.stream.cursor_lt (by omega)))

/-- Every command completes: `CFG` and `PUSH` by their branches, the others in the one way their rules give. -/
theorem exec_completes {s : State} (h : s.Inv) (i : Instr) : ∃ t, exec i s = .next t := by
  have hf := h.context.not_fatal
  cases i with
  | nop => exact ⟨_, unlessFatal_of_not_fatal hf _⟩
  | cfg w =>
    obtain hw | hw := Nat.lt_or_ge s.config.maxWindow.toNat w.toNat
    · exact ⟨_, exec_cfg_of_gt hf hw⟩
    · exact ⟨_, exec_cfg_of_le hf hw⟩
  | push b => exact execPush_completes h b
  | srst => exact ⟨_, unlessFatal_of_not_fatal hf _⟩
  | ckinit => exact ⟨_, unlessFatal_of_not_fatal hf _⟩
  | ckbyte b => exact ⟨_, unlessFatal_of_not_fatal hf _⟩
  | rdtab sel i => exact ⟨_, unlessFatal_of_not_fatal hf _⟩
  | clrerr => exact ⟨_, unlessFatal_of_not_fatal hf _⟩

theorem execWord_completes {s : State} (h : s.Inv) (cmd : Word) : ∃ t, execWord cmd s = .next t := by
  cases hdecode : decode cmd with
  | ok i => rw [execWord_of_decode_ok hdecode]; exact exec_completes h i
  | error e => exact ⟨_, (execWord_of_decode_error hdecode s).trans (execIllegal_of_not_fatal h.context.not_fatal)⟩

end Sys2Proof.Machine
end

section
/-! PROOFS. The fold unit: its two commands, and the checksum they compute (41_context_and_fold.md R68 to R70). -/

namespace Sys2Proof.Machine

/-- `CKINIT` outside the fault state: the whole next state (R68). -/
theorem exec_ckinit {s : State} (hf : s.errFatal = false) : exec .ckinit s = .next { s with ckacc := Config.init } :=
  unlessFatal_of_not_fatal hf _

/-- `CKBYTE` outside the fault state: the whole next state (R69). -/
theorem exec_ckbyte {s : State} (hf : s.errFatal = false) (b : Byte) :
    exec (.ckbyte b) s = .next { s with ckacc := Crc.upd s.ckacc b } :=
  unlessFatal_of_not_fatal hf _

/-- `CKRESULT` at a step boundary (R24, R30). -/
theorem readPort_ckresult {s : State} (hbusy : s.busy = false) : readPort s 0x04 = Crc.close s.ckacc :=
  readPort_of_portReg hbusy (reg := .ckresult) rfl

/-- After `CKINIT`, `CKRESULT` reads `checksum([])` (R68). -/
theorem readPort_ckresult_of_init {s : State} (hbusy : s.busy = false) (hckacc : s.ckacc = Config.init) :
    readPort s 0x04 = 0 := by
  rw [readPort_ckresult hbusy, hckacc]
  exact BitVec.xor_self

/-- Settles O17: `exec_ckinit`, `readPort_ckresult_of_init`, and the two encoding lemmas for format Z. -/
theorem ckinitSeedsTheFold : Obligations.CkinitSeedsTheFold := by
  intro s hf
  exact ⟨exec_ckinit hf, fun hbusy => readPort_ckresult_of_init hbusy rfl, fun cmd hop =>
    ⟨fun h => execWord_of_reserved_clear .ckinit hop h s, fun h => execWord_of_reserved_set .ckinit hop h hf⟩⟩

/-- Settles O18: `exec_ckbyte` with R54 unfolded, and the two encoding lemmas for format B. -/
theorem ckbyteFoldsOneByte : Obligations.CkbyteFoldsOneByte := by
  intro s hf
  exact ⟨exec_ckbyte hf, fun cmd hop =>
    ⟨fun h => execWord_of_reserved_clear (.ckbyte 0) hop h s, fun h => execWord_of_reserved_set (.ckbyte 0) hop h hf⟩⟩

/-! ### A run of words -/

theorem foldedByte_eq_some_iff {cmd : Word} {b : Byte} : foldedByte cmd = some b ↔ decode cmd = .ok (.ckbyte b) := by
  unfold foldedByte
  split
  · next b' hdecode => simp [hdecode]
  · next hother => exact iff_of_false nofun (hother b)

/-- A word that folds no byte and is not `CKINIT` leaves `CKACC` (R70: "whatever other commands are interleaved"). -/
theorem execWord_ckacc_of_no_byte {cmd : Word} {s t : State} (hx : execWord cmd s = .next t) (hbyte : foldedByte cmd = none)
    (hinit : decode cmd ≠ .ok .ckinit) : t.ckacc = s.ckacc := by
  have hnot (b : Byte) : decode cmd ≠ .ok (.ckbyte b) := by
    rw [Ne, ← foldedByte_eq_some_iff, hbyte]; exact nofun
  exact (foldAndTableRegistersHaveTheirOwnWriters s t cmd hx).1 hnot hinit

/-- A `CKBYTE` word folds its byte (R69). -/
theorem execWord_of_foldedByte {cmd : Word} {s : State} {b : Byte} (hbyte : foldedByte cmd = some b)
    (hf : s.errFatal = false) : execWord cmd s = .next { s with ckacc := Crc.upd s.ckacc b } :=
  (execWord_of_decode_ok (foldedByte_eq_some_iff.1 hbyte) s).trans (exec_ckbyte hf b)

/-- Words without a `CKINIT` complete, keep the invariants and fold the bytes of their `CKBYTE`s into `CKACC` (R70). -/
theorem execWords_fold {s : State} (h : s.Inv) {words : List Word} (hinit : ∀ cmd ∈ words, decode cmd ≠ .ok .ckinit) :
    ∃ t, execWords words s = .next t ∧ t.Inv ∧ t.ckacc = Crc.fold s.ckacc (words.filterMap foldedByte) := by
  induction words generalizing s with
  | nil => exact ⟨s, rfl, h, rfl⟩
  | cons cmd rest ih =>
    obtain ⟨hcmd, hrest⟩ := List.forall_mem_cons.1 hinit
    obtain ⟨u, hu⟩ := execWord_completes h cmd
    obtain ⟨t, ht, hinv, hckacc⟩ := ih (inv_keptByWriters.execWord h hu) hrest
    refine ⟨t, by simpa only [execWords, hu] using ht, hinv, hckacc.trans ?_⟩
    cases hbyte : foldedByte cmd with
    | none => rw [List.filterMap_cons_none hbyte, execWord_ckacc_of_no_byte hu hbyte hcmd]
    | some b =>
      obtain rfl := Host.Outcome.next.inj (hu.symm.trans (execWord_of_foldedByte hbyte h.context.not_fatal))
      rw [List.filterMap_cons_some hbyte, Crc.fold_cons]

/-- Settles O53: `CKINIT` seeds `CKACC`, and `execWords_fold` for the words after it. -/
theorem foldUnitComputesTheChecksum : Obligations.FoldUnitComputesTheChecksum := by
  intro s words hinv hinit
  have hseed : execWord (encode .ckinit) s = .next { s with ckacc := Config.init } :=
    (execWord_of_decode_ok (encodedCommandDecodesToItself .ckinit) s).trans (exec_ckinit hinv.context.not_fatal)
  obtain ⟨t, ht, htinv, hckacc⟩ := execWords_fold (inv_keptByWriters.execWord hinv hseed) hinit
  refine ⟨t, by simpa only [execWords, hseed] using ht, hckacc, ?_⟩
  rw [readPort_ckresult htinv.context.not_busy, hckacc]
  exact Crc.close_fold _

end Sys2Proof.Machine
end

section
/-! PROOFS. The stream reset and `SRST` (42_engine.md R71, R74). -/

namespace Sys2Proof.Machine

/-- `SRST` outside the fault state (R74). -/
theorem exec_srst {s : State} (hf : s.errFatal = false) : exec .srst s = .next (streamReset s) :=
  unlessFatal_of_not_fatal hf _

/-- The phase after a stream reset (R29) is that after a `CFG` of the same window size. -/
theorem streamReset_phase (s : State) : (streamReset s).phase = if s.wsize = 0 then .zeroWindow else .filling :=
  configure_phase s.wsize s

/-- Settles O20: `exec_srst`, `streamReset_phase`, and the two encoding lemmas for format Z. -/
theorem srstStartsAFreshStream : Obligations.SrstStartsAFreshStream := by
  intro s hf
  refine ⟨⟨streamReset s, exec_srst hf, rfl, fun _ => rfl, streamReset_phase s⟩, fun cmd hop =>
    ⟨fun h => execWord_of_reserved_clear .srst hop h s, fun h => execWord_of_reserved_set .srst hop h hf⟩⟩

end Sys2Proof.Machine
end

section
/-! PROOFS. The cases of `PUSH` from their conditions (42_engine.md R72): which one runs, and the whole next state it answers. -/

namespace Sys2Proof.Machine

/-! ### Which case runs -/

/-- Step 1 of R72: at the limit the push is refused. -/
theorem exec_push_of_limit {s : State} (hf : s.errFatal = false) (hc : s.count.toNat = 2 ^ 64 - 1) (b : Byte) :
    exec (.push b) s = .next (raise .countOverflow s) :=
  (unlessFatal_of_not_fatal hf _).trans (if_pos hc)

theorem exec_push_of_zeroWindow {s : State} (hf : s.errFatal = false) (hc : s.count.toNat < 2 ^ 64 - 1)
    (hw : s.wsize.toNat = 0) (b : Byte) : exec (.push b) s = pushZeroWindow (s.count.toNat + 1) s :=
  (unlessFatal_of_not_fatal hf _).trans ((if_neg (Nat.ne_of_lt hc)).trans (if_pos hw))

/-- The three cases of a nonzero window, by the post-increment count against `w` (R72 step 3). -/
theorem exec_push_of_window {s : State} (hf : s.errFatal = false) (hc : s.count.toNat < 2 ^ 64 - 1)
    (hw : 1 ≤ s.wsize.toNat) (b : Byte) :
    exec (.push b) s =
      if s.count.toNat + 1 < s.wsize.toNat then pushFilling b (s.count.toNat + 1) s
      else if s.count.toNat + 1 = s.wsize.toNat then pushFirstFull b (s.count.toNat + 1) s
      else pushRolling b (s.count.toNat + 1) s :=
  (unlessFatal_of_not_fatal hf _).trans ((if_neg (Nat.ne_of_lt hc)).trans (if_neg (Nat.ne_zero_of_lt hw)))

/-- A window that is not full is far from the count limit: `WSIZE` has 24 bits. -/
theorem count_lt_limit_of_lt_wsize {s : State} (h : s.count.toNat < s.wsize.toNat) : s.count.toNat < 2 ^ 64 - 1 := by
  have := s.wsize.isLt
  omega

theorem exec_push_of_filling {s : State} (hf : s.errFatal = false) (hlt : s.count.toNat + 1 < s.wsize.toNat) (b : Byte) :
    exec (.push b) s = pushFilling b (s.count.toNat + 1) s := by
  rw [exec_push_of_window hf (count_lt_limit_of_lt_wsize (by omega)) (by omega), if_pos hlt]

theorem exec_push_of_firstFull {s : State} (hf : s.errFatal = false) (heq : s.count.toNat + 1 = s.wsize.toNat) (b : Byte) :
    exec (.push b) s = pushFirstFull b (s.count.toNat + 1) s := by
  rw [exec_push_of_window hf (count_lt_limit_of_lt_wsize (by omega)) (by omega), if_neg (by omega), if_pos heq]

theorem exec_push_of_rolling {s : State} (hf : s.errFatal = false) (hc : s.count.toNat < 2 ^ 64 - 1)
    (hw : 1 ≤ s.wsize.toNat) (hfull : s.wsize.toNat ≤ s.count.toNat) (b : Byte) :
    exec (.push b) s = pushRolling b (s.count.toNat + 1) s := by
  rw [exec_push_of_window hf hc hw, if_neg (by omega), if_neg (by omega)]

/-! ### What it answers -/

/-- R72 step 2 as the register's own increment. -/
theorem setCount_succ (s : State) : setCount (s.count.toNat + 1) s = { s with count := s.count + 1 } := by
  rw [setCount, BitVec.ofNat_add, BitVec.ofNat_toNat, BitVec.setWidth_eq]
  rfl

theorem pushFilling_of_slotExists {s : State} (hslot : s.slotExists s.count.toNat = true) (b : Byte) :
    pushFilling b (s.count.toNat + 1) s =
      .next { s with count := s.count + 1, win := s.win.write s.count.toNat b, rvalid := false } := by
  rw [pushFilling, Nat.add_sub_cancel, if_pos hslot, setCount_succ]

theorem pushFirstFull_of_readSlots {s : State} {b : Byte} {bytes : List Byte} (heq : s.count.toNat + 1 = s.wsize.toNat)
    (hslot : s.slotExists (s.wsize.toNat - 1) = true)
    (hbytes : (s.win.write (s.wsize.toNat - 1) b).readSlots (List.range s.wsize.toNat) = some bytes) :
    pushFirstFull b (s.count.toNat + 1) s =
      .next { s with
        count := s.count + 1, win := s.win.write (s.wsize.toNat - 1) b, lastOpen := Crc.fold Config.init bytes,
        lastValid := true, result := Crc.close (Crc.fold Config.init bytes), rpos := 0, rvalid := true } := by
  have hrpos : BitVec.ofNat 64 (s.count.toNat + 1 - s.wsize.toNat) = 0 := by rw [heq, Nat.sub_self]; rfl
  simp only [pushFirstFull, hslot, hbytes, if_true, report, setCount_succ, hrpos]

theorem pushFirstFull_of_breach {s : State} {b : Byte} (n : Nat) (hslot : s.slotExists (s.wsize.toNat - 1) = true)
    (hnone : (s.win.write (s.wsize.toNat - 1) b).readSlots (List.range s.wsize.toNat) = none) :
    pushFirstFull b n s = .next (raise .invariantBreach s) := by
  simp only [pushFirstFull, hslot, hnone, if_true]

theorem pushRolling_of_read {s : State} {evicted : Byte} (hvalid : s.lastValid = true)
    (hslot : s.slotExists s.cursor.toNat = true) (hread : s.win.read s.cursor.toNat = some evicted) (b : Byte) :
    pushRolling b (s.count.toNat + 1) s =
      .next { s with
        count := s.count + 1, win := s.win.write s.cursor.toNat b
        cursor := BitVec.ofNat 24 ((s.cursor.toNat + 1) % s.wsize.toNat)
        lastOpen := Crc.upd s.lastOpen b ^^^ s.rollRead evicted
        result := Crc.close (Crc.upd s.lastOpen b ^^^ s.rollRead evicted)
        rpos := BitVec.ofNat 64 (s.count.toNat + 1 - s.wsize.toNat), rvalid := true } := by
  simp only [pushRolling, hvalid, Bool.true_eq_false, if_false, hslot, if_true, hread, report, setCount_succ]

theorem pushRolling_of_no_openCrc {s : State} (hlast : s.lastValid = false) (b : Byte) (n : Nat) :
    pushRolling b n s = .next (raise .invariantBreach s) :=
  if_pos hlast

theorem pushRolling_of_no_evicted {s : State} (hvalid : s.lastValid = true) (hslot : s.slotExists s.cursor.toNat = true)
    (hnone : s.win.read s.cursor.toNat = none) (b : Byte) (n : Nat) :
    pushRolling b n s = .next (raise .invariantBreach s) := by
  simp only [pushRolling, hvalid, Bool.true_eq_false, if_false, hslot, if_true, hnone]

/-- The slots `0 .. k` after a store to `k`: the bytes of the older ones, and then the new byte. -/
theorem Memory.readSlots_range_write {m : Memory} {k : Nat} {bytes : List Byte} (b : Byte)
    (h : m.readSlots (List.range k) = some bytes) :
    (m.write k b).readSlots (List.range (k + 1)) = some (bytes ++ [b]) := by
  rw [List.range_succ]
  refine Memory.readSlots_append _ _ _ _ _ ?_ ?_
  · rw [Memory.readSlots_write_other _ _ _ _ List.not_mem_range_self, h]
  · simp [Memory.readSlots]

/-- Settles O22: step 1 of R72. -/
theorem pushIsRefusedAtTheCountLimit : Obligations.PushIsRefusedAtTheCountLimit :=
  fun _ b hf hc => exec_push_of_limit hf hc b

/-- Settles O23: the zero-window case of R72. -/
theorem pushInTheZeroWindowOnlyCounts : Obligations.PushInTheZeroWindowOnlyCounts := by
  intro s b hf hc hw
  rw [exec_push_of_zeroWindow hf hc (congrArg BitVec.toNat hw), pushZeroWindow, setCount_succ]

/-- Settles O24: the Filling case of R72, whose slot exists below `MAX_WINDOW`. -/
theorem pushWhileFillingStoresTheByte : Obligations.PushWhileFillingStoresTheByte := by
  intro s b hf hlt hmax
  have hslot : s.slotExists s.count.toNat = true := (slotExists_iff _ _).2 (by omega)
  exact ⟨_, (exec_push_of_filling hf hlt b).trans (pushFilling_of_slotExists hslot b), rfl,
    fun slot => Memory.read_write _ _ slot b⟩

/-- Settles O25: the First-Full case of R72; the fold is over the older bytes and the new one. -/
theorem pushCompletingTheWindowReportsItsChecksum : Obligations.PushCompletingTheWindowReportsItsChecksum := by
  intro s b bytes hf heq hmax hbytes
  have hslot : s.slotExists (s.wsize.toNat - 1) = true := (slotExists_iff _ _).2 (by omega)
  have hwindow : (s.win.write (s.wsize.toNat - 1) b).readSlots (List.range s.wsize.toNat) = some (bytes ++ [b]) := by
    have h := Memory.readSlots_range_write b hbytes
    rwa [Nat.sub_add_cancel (by omega)] at h
  exact ⟨_, (exec_push_of_firstFull hf heq b).trans (pushFirstFull_of_readSlots heq hslot hwindow), rfl,
    fun slot => Memory.read_write _ _ slot b⟩

/-- Settles O26: the Rolling case of R72. -/
theorem rollingPushEvictsTheOldestByte : Obligations.RollingPushEvictsTheOldestByte := by
  intro s b evicted hf hc hw hfull hvalid hcursor hread
  have hslot : s.slotExists s.cursor.toNat = true := (slotExists_iff _ _).2 hcursor
  exact ⟨_, (exec_push_of_rolling hf hc hw hfull b).trans (pushRolling_of_read hvalid hslot hread b), rfl,
    fun slot => Memory.read_write _ _ slot b⟩

/-- Settles O27: a First-Full push that cannot read its window, and a Rolling push without an open CRC or a byte to evict. -/
theorem breachSetsOnlyErrFatal : Obligations.BreachSetsOnlyErrFatal := by
  intro s b hf hc hw hmax
  refine ⟨fun heq hunwritten => ?_, fun hfull hlast => ?_, fun hfull hvalid hcursor hnone => ?_⟩
  · have hslot : s.slotExists (s.wsize.toNat - 1) = true := (slotExists_iff _ _).2 (by omega)
    have hnone := (Memory.readSlots_range_write_eq_none s.win (s.wsize.toNat - 1) b).2 hunwritten
    rw [Nat.sub_add_cancel hw] at hnone
    exact (exec_push_of_firstFull hf heq b).trans (pushFirstFull_of_breach _ hslot hnone)
  · exact (exec_push_of_rolling hf hc hw hfull b).trans (pushRolling_of_no_openCrc hlast b _)
  · exact (exec_push_of_rolling hf hc hw hfull b).trans
      (pushRolling_of_no_evicted hvalid ((slotExists_iff _ _).2 hcursor) hnone b _)

end Sys2Proof.Machine
end

section
/-! PROOFS. What `PUSH` leaves unchanged (42_engine.md R72), the zero window (R78), and a run's pushes (R75). -/

namespace Sys2Proof.Machine

/-- The slot `PUSH` stores to (R72): the next one until the window is full, `CURSOR` after, none in the zero window. -/
def State.storedSlot (s : State) : Option Nat :=
  if s.wsize.toNat = 0 then none
  else if s.count.toNat < s.wsize.toNat then some s.count.toNat
  else some s.cursor.toNat

theorem storedSlot_of_not_full {s : State} (h : s.count.toNat < s.wsize.toNat) : s.storedSlot = some s.count.toNat := by
  rw [State.storedSlot, if_neg (Nat.ne_zero_of_lt h), if_pos h]

theorem storedSlot_of_full {s : State} (hw : 1 ≤ s.wsize.toNat) (h : s.wsize.toNat ≤ s.count.toNat) :
    s.storedSlot = some s.cursor.toNat := by
  rw [State.storedSlot, if_neg (Nat.ne_zero_of_lt hw), if_neg (Nat.not_lt.2 h)]

/-- `WIN` after a `PUSH`: unchanged, or with the byte in the stored slot. -/
theorem execPush_win {b : Byte} {s t : State} (h : execPush b s = .next t) :
    t.win = s.win ∨ ∃ slot, s.storedSlot = some slot ∧ t.win = s.win.write slot b := by
  obtain ⟨-, rfl⟩ | ⟨-, -, rfl⟩ | ⟨-, -, -, rfl⟩ | ⟨-, -, hlt, -, rfl⟩ | ⟨-, -, heq, -, _, -, rfl⟩ |
    ⟨-, -, hw, hfull, -, -, _, -, rfl⟩ | ⟨-, -, -, rfl, -⟩ := execPush_cases h
  · exact .inl rfl
  · exact .inl rfl
  · exact .inl rfl
  · exact .inr ⟨_, storedSlot_of_not_full (by omega), rfl⟩
  · exact .inr ⟨_, storedSlot_of_not_full (by omega), rfl⟩
  · exact .inr ⟨_, storedSlot_of_full hw hfull, rfl⟩
  · exact .inl rfl

theorem execPush_win_other {b : Byte} {s t : State} (h : execPush b s = .next t) {slot : Nat}
    (hslot : s.storedSlot ≠ some slot) : t.win.read slot = s.win.read slot := by
  obtain hwin | ⟨stored, hstored, hwin⟩ := execPush_win h
  · rw [hwin]
  · rw [hwin, Memory.read_write_other _ _ (by rintro rfl; exact hslot hstored)]

/-- A push that yields no checksum (Filling, or in the zero window) leaves the open CRC and the reported value and position. -/
theorem execPush_results {b : Byte} {s t : State} (h : execPush b s = .next t)
    (hno : s.count.toNat + 1 < s.wsize.toNat ∨ s.wsize.toNat = 0) :
    t.lastOpen = s.lastOpen ∧ t.lastValid = s.lastValid ∧ t.result = s.result ∧ t.rpos = s.rpos := by
  obtain ⟨-, rfl⟩ | ⟨-, -, rfl⟩ | ⟨-, -, -, rfl⟩ | ⟨-, -, -, -, rfl⟩ | ⟨-, -, heq, -, -⟩ | ⟨-, -, hw, hfull, -⟩ |
    ⟨-, -, -, rfl, -⟩ := execPush_cases h
  · exact ⟨rfl, rfl, rfl, rfl⟩
  · exact ⟨rfl, rfl, rfl, rfl⟩
  · exact ⟨rfl, rfl, rfl, rfl⟩
  · exact ⟨rfl, rfl, rfl, rfl⟩
  · omega
  · omega
  · exact ⟨rfl, rfl, rfl, rfl⟩

/-- Only a Rolling push moves `CURSOR`. -/
theorem execPush_cursor {b : Byte} {s t : State} (h : execPush b s = .next t)
    (hno : s.count.toNat < s.wsize.toNat ∨ s.wsize.toNat = 0) : t.cursor = s.cursor := by
  obtain ⟨-, rfl⟩ | ⟨-, -, rfl⟩ | ⟨-, -, -, rfl⟩ | ⟨-, -, -, -, rfl⟩ | ⟨-, -, -, -, _, -, rfl⟩ | ⟨-, -, hw, hfull, -⟩ |
    ⟨-, -, -, rfl, -⟩ := execPush_cases h
  · rfl
  · rfl
  · rfl
  · rfl
  · rfl
  · omega
  · rfl

/-- Settles O29: the registers outside the stream, and then the stream's registers and `WIN` by the case of R72. -/
theorem pushFrame : Obligations.PushFrame := by
  intro s t b h
  obtain ⟨hconfig, hwsize, hroll, hckacc, htdata, hillegal, hwsizeFlag, hbusy⟩ := execPush_frame h
  obtain ⟨-, -, hport⟩ := exec_frame h
  have hzero (hw : s.wsize = 0) : s.wsize.toNat = 0 := congrArg BitVec.toNat hw
  exact ⟨hconfig, hwsize, hroll, hckacc, htdata, hillegal, hwsizeFlag, hbusy, hport,
    fun hno => execPush_results h (hno.imp_right hzero), fun hno => execPush_cursor h (hno.imp_right hzero),
    fun _ hslot => execPush_win_other h hslot⟩

/-! ### The zero window -/

theorem pushedByte_eq_some_iff {cmd : Word} {b : Byte} : pushedByte cmd = some b ↔ decode cmd = .ok (.push b) := by
  unfold pushedByte
  split
  · next b' hdecode => simp [hdecode]
  · next hother => exact iff_of_false nofun (hother b)

/-- A `PUSH` word is carried out as its command (R49, R72). -/
theorem execWord_of_pushedByte {cmd : Word} {b : Byte} (h : pushedByte cmd = some b) (s : State) :
    execWord cmd s = exec (.push b) s :=
  execWord_of_decode_ok (pushedByte_eq_some_iff.1 h) s

/-- `WSIZE` after a word: as before, or the `W` of the word, which is then a `CFG` (R66, R67). -/
theorem execWord_wsize {cmd : Word} {s t : State} (hx : execWord cmd s = .next t) :
    t.wsize = s.wsize ∨ decode cmd = .ok (.cfg t.wsize) := by
  by_cases hcfg : ∃ w, decode cmd = .ok (.cfg w)
  · obtain ⟨w, hdecode⟩ := hcfg
    rw [execWord_of_decode_ok hdecode] at hx
    obtain ⟨-, rfl⟩ | ⟨-, -, rfl⟩ | ⟨-, -, rfl⟩ := execCfg_cases hx
    · exact .inl rfl
    · exact .inl rfl
    · exact .inr hdecode
  · exact .inl (onlyAcceptedCfgChangesTheContext s t cmd hx fun w hdecode => absurd ⟨w, hdecode⟩ hcfg).1

/-- Settles O35: a push at `WSIZE = 0` runs the zero-window case, and a `WSIZE` that is no longer 0 is a `CFG`'s. -/
theorem zeroWindowIsAbsorbing : Obligations.ZeroWindowIsAbsorbing := by
  intro s t cmd hzero hx
  refine ⟨fun hf hc hpush => ?_, fun hne => ?_⟩
  · obtain ⟨b, hb⟩ := Option.ne_none_iff_exists'.1 hpush
    rw [execWord_of_pushedByte hb, exec_push_of_zeroWindow hf hc (congrArg BitVec.toNat hzero)] at hx
    cases hx; rfl
  · have hdecode := (execWord_wsize hx).resolve_left (hzero ▸ hne)
    exact ⟨t.wsize, hdecode, Nat.pos_of_ne_zero (BitVec.toNat_ne_iff_ne.2 hne)⟩

/-! ### Runs -/

/-- Settles O49: under the invariants of every reachable state `PUSH` completes and keeps them, `ERR_FATAL = 0` among them. -/
theorem noReachablePushBreaches : Obligations.NoReachablePushBreaches := by
  intro s b hs
  obtain ⟨t, ht⟩ := execPush_completes hs.inv b
  exact ⟨t, ht, (execPush_inv hs.inv ht).context.not_fatal⟩

end Sys2Proof.Machine
end

section
/-! PROOFS. Words that leave the stream alone (42_engine.md R76: "no stream reset in between"). -/

namespace Sys2Proof.Machine

/-- `t` is `s` but for the registers no rule of the stream reads: `CKACC`, `TDATA` and the flags that have a recovery. -/
def SameStream (s t : State) : Prop :=
  ∃ (ckacc : Crc) (tdata : Word) (errIllegal errWsize errCount : Bool),
    t = { s with ckacc, tdata, errIllegal, errWsize, errCount }

theorem SameStream.refl (s : State) : SameStream s s := ⟨s.ckacc, s.tdata, s.errIllegal, s.errWsize, s.errCount, rfl⟩

/-- A command that pushes nothing and starts no stream leaves the stream alone. -/
theorem exec_sameStream {i : Instr} {s t : State} (he : exec i s = .next t) (hpush : ∀ b, i ≠ .push b)
    (hstart : ¬ BeginsStream s.config i) : SameStream s t := by
  cases i with
  | nop => rw [execNop_cases he]; exact .refl s
  | cfg w =>
    obtain ⟨-, rfl⟩ | ⟨-, -, rfl⟩ | ⟨-, hw, -⟩ := execCfg_cases he
    · exact .refl _
    · exact ⟨s.ckacc, s.tdata, s.errIllegal, true, s.errCount, rfl⟩
    · exact absurd (.inr ⟨w, rfl, hw⟩) hstart
  | push b => exact absurd rfl (hpush b)
  | srst => exact absurd (.inl rfl) hstart
  | ckinit =>
    obtain ⟨-, rfl⟩ | ⟨-, rfl⟩ := execCkinit_cases he
    · exact .refl _
    · exact ⟨Config.init, s.tdata, s.errIllegal, s.errWsize, s.errCount, rfl⟩
  | ckbyte b =>
    obtain ⟨-, rfl⟩ | ⟨-, rfl⟩ := execCkbyte_cases he
    · exact .refl _
    · exact ⟨Crc.upd s.ckacc b, s.tdata, s.errIllegal, s.errWsize, s.errCount, rfl⟩
  | rdtab sel i =>
    obtain ⟨-, rfl⟩ | ⟨-, rfl⟩ := execRdtab_cases he
    · exact .refl _
    · exact ⟨s.ckacc, s.tableEntry sel i, s.errIllegal, s.errWsize, s.errCount, rfl⟩
  | clrerr =>
    obtain ⟨-, rfl⟩ | ⟨-, rfl⟩ := execClrerr_cases he
    · exact .refl _
    · exact ⟨s.ckacc, s.tdata, false, false, s.errCount, rfl⟩

/-- So does a word: such a command, or an illegal word, which raises its flag (R49). -/
theorem execWord_sameStream {cmd : Word} {s t : State} (hx : execWord cmd s = .next t) (hpush : pushedByte cmd = none)
    (hstart : startsStream s.config cmd = false) : SameStream s t := by
  obtain ⟨i, hdecode, he⟩ | ⟨e, -, he⟩ := execWord_cases hx
  · refine exec_sameStream he (fun b hi => ?_) ((startsStream_of_decode_ok hdecode _).1 hstart)
    have hb : pushedByte cmd = some b := pushedByte_eq_some_iff.2 (hi ▸ hdecode)
    simp [hpush] at hb
  · obtain ⟨-, rfl⟩ | ⟨-, rfl⟩ := execIllegal_cases he
    · exact .refl _
    · exact ⟨s.ckacc, s.tdata, true, s.errWsize, s.errCount, rfl⟩

end Sys2Proof.Machine
end

section
/-! PROOFS. Rolling equals recomputing (42_engine.md R76): after any stream the logical window holds its last `w` bytes, and the
result registers report their checksum. -/

namespace Sys2Proof.Machine

/-! ### The logical window after a push -/

/-- While `CURSOR = 0` and at most `w` bytes were pushed, the window is in slot order (R32). -/
theorem State.logicalWindow_of_cursor_zero {s : State} (hcursor : s.cursor = 0) (hle : s.count.toNat ≤ s.wsize.toNat) :
    s.logicalWindow = s.win.readSlots (List.range s.count.toNat) := by
  obtain hlt | heq := Nat.lt_or_eq_of_le hle
  · exact if_pos hlt
  · have hzero : s.cursor.toNat = 0 := congrArg BitVec.toNat hcursor
    rw [State.logicalWindow_of_full (Nat.le_of_eq heq.symm), hzero, windowSlots_zero, heq]

/-- Storing the byte while the window fills or completes appends it to the logical window. -/
theorem State.StreamInv.logicalWindow_fill {s t : State} {bytes : List Byte} (h : s.StreamInv) (b : Byte)
    (hlt : s.count.toNat < s.wsize.toNat) (hwsize : t.wsize = s.wsize) (hcursor : t.cursor = s.cursor)
    (hcount : t.count.toNat = s.count.toNat + 1) (hwin : t.win = s.win.write s.count.toNat b)
    (hwindow : s.logicalWindow = some bytes) : t.logicalWindow = some (bytes ++ [b]) := by
  have hzero := h.cursor_filling hlt
  rw [State.logicalWindow_of_cursor_zero hzero (Nat.le_of_lt hlt)] at hwindow
  rw [State.logicalWindow_of_cursor_zero (hcursor.trans hzero) (by rw [hcount, hwsize]; exact hlt), hcount, hwin,
    Memory.readSlots_range_write b hwindow]

/-- Evicting the oldest byte of a full window takes it off the front of the logical window and appends the new one. -/
theorem State.StreamInv.logicalWindow_roll {s t : State} {bytes : List Byte} {evicted : Byte} (h : s.StreamInv) (b : Byte)
    (hw : 1 ≤ s.wsize.toNat) (hfull : s.wsize.toNat ≤ s.count.toNat) (hwsize : t.wsize = s.wsize)
    (hcursor : t.cursor.toNat = (s.cursor.toNat + 1) % s.wsize.toNat) (hcount : t.count.toNat = s.count.toNat + 1)
    (hwin : t.win = s.win.write s.cursor.toNat b) (hread : s.win.read s.cursor.toNat = some evicted)
    (hwindow : s.logicalWindow = some bytes) : t.logicalWindow = some (bytes.tail ++ [b]) := by
  have hlt := h.cursor_lt hw
  rw [State.logicalWindow_of_full hfull] at hwindow
  rw [State.logicalWindow_of_full (by rw [hwsize, hcount]; exact Nat.le_succ_of_le hfull), hwin, hcursor, hwsize]
  obtain ⟨k, hk⟩ : ∃ k, s.wsize.toNat = k + 1 := ⟨s.wsize.toNat - 1, by omega⟩
  rw [hk] at hlt hwindow ⊢
  rw [windowSlots_eq_cons hlt] at hwindow
  obtain ⟨kept, hkept, rfl⟩ := Memory.readSlots_cons_eq_some hread hwindow
  exact Memory.readSlots_windowSlots_write b hlt hkept

/-! ### The state after a stream -/

/-- The last `w` bytes of a stream, all of it when it is shorter. -/
def lastBytes (w : Nat) (pushed : List Byte) : List Byte := pushed.drop (pushed.length - w)

theorem lastBytes_of_length_le {w : Nat} {pushed : List Byte} (h : pushed.length ≤ w) : lastBytes w pushed = pushed := by
  rw [lastBytes, Nat.sub_eq_zero_of_le h, List.drop_zero]

/-- One more byte on a stream of at least `w` bytes takes the oldest of the last `w` away. -/
theorem lastBytes_append_singleton {w : Nat} {pushed : List Byte} (hw : 1 ≤ w) (h : w ≤ pushed.length) (b : Byte) :
    lastBytes w (pushed ++ [b]) = (lastBytes w pushed).tail ++ [b] := by
  have hlength : (pushed ++ [b]).length - w = pushed.length - w + 1 := by
    rw [List.length_append, List.length_singleton]; omega
  rw [lastBytes, hlength, List.drop_append_of_le_length (by omega), lastBytes, List.tail_drop]

/-- What a push that completes the window, or rolls it, reports (R72): a present open CRC of the logical window, its closed
form, and its position. -/
structure State.ReportsWindow (s : State) : Prop where
  rvalid : s.rvalid = true
  openCrc : s.OpenCrcOf s.lastOpen
  result : s.result = Crc.close s.lastOpen
  rpos : s.rpos.toNat = s.count.toNat - s.wsize.toNat

/-- The block with parameter `c` and window size `w >= 1` after a stream of the bytes `pushed` (R76). -/
structure State.HasStream (c : Config) (w : Nat) (pushed : List Byte) (s : State) : Prop where
  inv : s.Inv
  config_eq : s.config = c
  wsize_eq : s.wsize.toNat = w
  window_pos : 1 ≤ w
  count_eq : s.count.toNat = pushed.length
  window_eq : s.logicalWindow = some (lastBytes w pushed)
  reports : w ≤ pushed.length → s.ReportsWindow

section
variable {c : Config} {w : Nat} {pushed : List Byte} {s t : State}

theorem State.HasStream.of_count_zero (h : s.Inv) (hcount : s.count = 0) (hw : 1 ≤ s.wsize.toNat) :
    s.HasStream s.config s.wsize.toNat [] where
  inv := h
  config_eq := rfl
  wsize_eq := rfl
  window_pos := hw
  count_eq := congrArg BitVec.toNat hcount
  window_eq := by
    have hzero : s.count.toNat = 0 := congrArg BitVec.toNat hcount
    rw [State.logicalWindow, if_pos (by omega), hzero, List.range_zero, Memory.readSlots,
      lastBytes_of_length_le (Nat.zero_le _)]
  reports hle := absurd hle (Nat.not_le.2 hw)

/-- Nothing of R76 depends on the registers outside the stream. -/
theorem State.HasStream.of_sameStream (h : s.HasStream c w pushed) (hsame : SameStream s t) : t.HasStream c w pushed := by
  obtain ⟨_, _, _, _, _, rfl⟩ := hsame
  exact ⟨h.inv, h.config_eq, h.wsize_eq, h.window_pos, h.count_eq, h.window_eq, fun hle =>
    have hreports := h.reports hle
    ⟨hreports.rvalid, hreports.openCrc, hreports.result, hreports.rpos⟩⟩

/-- No stream is longer than the count can hold. -/
theorem State.HasStream.length_le (h : s.HasStream c w pushed) : pushed.length ≤ 2 ^ 64 - 1 := by
  rw [← h.count_eq]; exact Nat.le_pred_of_lt s.count.isLt

/-- A stream still shorter than the window lies in it whole, and so does one byte more. -/
theorem State.HasStream.window_fill (h : s.HasStream c w pushed) (b : Byte) (hlt : s.count.toNat < w)
    (hwsize : t.wsize = s.wsize) (hcursor : t.cursor = s.cursor) (hcount : t.count.toNat = s.count.toNat + 1)
    (hwin : t.win = s.win.write s.count.toNat b) : t.logicalWindow = some (lastBytes w (pushed ++ [b])) := by
  have hlength : pushed.length < w := h.count_eq ▸ hlt
  have hold : s.logicalWindow = some pushed := by rw [h.window_eq, lastBytes_of_length_le (Nat.le_of_lt hlength)]
  rw [lastBytes_of_length_le (by rw [List.length_append, List.length_singleton]; exact hlength)]
  exact h.inv.stream.logicalWindow_fill b (h.wsize_eq ▸ hlt) hwsize hcursor hcount hwin hold

/-- An accepted push extends the stream by its byte: by the cases of R72. -/
theorem State.HasStream.push (h : s.HasStream c w pushed) (hc : s.count.toNat ≠ 2 ^ 64 - 1) {b : Byte}
    (hp : execPush b s = .next t) : t.HasStream c w (pushed ++ [b]) := by
  have hfill := h.window_fill b (t := t)
  obtain ⟨hinv, hconfig, rfl, hw, hcount, hwindow, hreports⟩ := h
  have htinv := execPush_inv hinv hp
  have hstream := hinv.stream
  have hlength : s.count.toNat + 1 = (pushed ++ [b]).length := by rw [hcount, List.length_append, List.length_singleton]
  have hsucc := toNat_count_succ hc
  have hrpos := (toNat_rpos s hc).trans (congrArg (· - s.wsize.toNat) hsucc.symm)
  obtain ⟨hfatal, -⟩ | ⟨-, hlimit, -⟩ | ⟨-, -, hzero, -⟩ | ⟨-, -, hlt, -, rfl⟩ | ⟨-, -, heq, -, bytes, hbytes, rfl⟩ |
    ⟨-, -, -, hfull, -, -, evicted, hread, rfl⟩ | ⟨-, -, -, rfl, -⟩ := execPush_cases hp
  · simp [hinv.context.not_fatal] at hfatal
  · exact absurd hlimit hc
  · omega
  · exact ⟨htinv, hconfig, rfl, hw, hsucc.trans hlength, hfill (by omega) rfl rfl hsucc rfl, fun hle => by omega⟩
  · refine ⟨htinv, hconfig, rfl, hw, hsucc.trans hlength, hfill (by omega) rfl rfl hsucc rfl,
      fun _ => ⟨rfl, ?_, rfl, hrpos⟩⟩
    exact openCrcOf_firstFull (heq.symm.le.trans hsucc.symm.le) (hstream.cursor_filling (by omega)) hbytes
  · have hcursor := toNat_cursor_next s hw
    refine ⟨htinv, hconfig, rfl, hw, hsucc.trans hlength, ?_, fun _ => ⟨rfl, ?_, rfl, hrpos⟩⟩
    · rw [lastBytes_append_singleton hw (hcount ▸ hfull)]
      exact hstream.logicalWindow_roll b hw hfull rfl hcursor hsucc rfl hread hwindow
    · exact openCrcOf_rolling b hinv hw hfull (hreports (hcount ▸ hfull)).openCrc hread rfl
        ((Nat.le_succ_of_le hfull).trans hsucc.symm.le) hcursor rfl
  · simpa using htinv.context.not_fatal

/-- A word that starts no stream completes, and extends the stream by the byte it pushes, if the limit allows one more. -/
theorem State.HasStream.execWord (h : s.HasStream c w pushed) {cmd : Word} (hstart : startsStream c cmd = false) :
    ∃ t, execWord cmd s = .next t ∧ t.HasStream c w ((pushed ++ (pushedByte cmd).toList).take (2 ^ 64 - 1)) := by
  obtain ⟨t, ht⟩ := execWord_completes h.inv cmd
  refine ⟨t, ht, ?_⟩
  cases hpush : pushedByte cmd with
  | none =>
    rw [Option.toList_none, List.append_nil, List.take_of_length_le h.length_le]
    exact h.of_sameStream (execWord_sameStream ht hpush (h.config_eq ▸ hstart))
  | some b =>
    rw [execWord_of_pushedByte hpush] at ht
    rw [Option.toList_some]
    by_cases hc : s.count.toNat = 2 ^ 64 - 1
    · rw [exec_push_of_limit h.inv.context.not_fatal hc] at ht
      cases ht
      rw [List.take_left' (h.count_eq.symm.trans hc)]
      exact h.of_sameStream ⟨s.ckacc, s.tdata, s.errIllegal, s.errWsize, true, rfl⟩
    · have hlength : (pushed ++ [b]).length ≤ 2 ^ 64 - 1 := by
        have hcount := h.count_eq
        rw [List.length_append, List.length_singleton]; omega
      rw [List.take_of_length_le hlength]
      exact h.push hc ht

end

theorem take_take_append {α : Type} (n : Nat) (xs ys : List α) : (xs.take n ++ ys).take n = (xs ++ ys).take n := by
  simp only [List.take_append, List.take_take, Nat.min_self, List.length_take]
  congr 2
  omega

/-- Words that start no stream complete, and extend the stream by the bytes they push, up to the limit (R72 step 1). -/
theorem State.HasStream.execWords {c : Config} {w : Nat} {pushed : List Byte} {s : State} (h : s.HasStream c w pushed)
    {words : List Word} (hstart : ∀ cmd ∈ words, startsStream c cmd = false) :
    ∃ t, execWords words s = .next t ∧ t.HasStream c w ((pushed ++ words.filterMap pushedByte).take (2 ^ 64 - 1)) := by
  induction words generalizing s pushed with
  | nil => exact ⟨s, rfl, by rwa [List.filterMap_nil, List.append_nil, List.take_of_length_le h.length_le]⟩
  | cons cmd rest ih =>
    obtain ⟨hcmd, hrest⟩ := List.forall_mem_cons.1 hstart
    obtain ⟨u, hu, hustream⟩ := h.execWord hcmd
    obtain ⟨t, ht, htstream⟩ := ih hustream hrest
    refine ⟨t, by simpa only [Machine.execWords, hu] using ht, ?_⟩
    have hbytes : (cmd :: rest).filterMap pushedByte = (pushedByte cmd).toList ++ rest.filterMap pushedByte := by
      cases hpush : pushedByte cmd with
      | none => rw [List.filterMap_cons_none hpush, Option.toList_none, List.nil_append]
      | some b => rw [List.filterMap_cons_some hpush, Option.toList_some, List.singleton_append]
    rwa [hbytes, ← List.append_assoc, ← take_take_append]

/-- Settles O50: the state after the words has the stream they push, and a stream of at least `w` bytes is reported. -/
theorem rollingEqualsRecompute : Obligations.RollingEqualsRecompute := by
  intro s words pushed hinv hcount hw hstart hpushed hlength
  obtain ⟨t, ht, hstream⟩ := (State.HasStream.of_count_zero hinv hcount hw).execWords hstart
  rw [List.nil_append, ← hpushed] at hstream
  obtain ⟨hrvalid, hopen, hresult, hrpos⟩ := hstream.reports hlength
  have hlastOpen : t.lastOpen = Crc.fold Config.init (lastBytes s.wsize.toNat pushed) := by
    rw [State.OpenCrcOf, hstream.window_eq, Option.map_some] at hopen
    exact (Option.some.inj hopen).symm
  refine ⟨t, ht, hstream.count_eq, hstream.window_eq, hlastOpen, ?_, ?_, hrvalid⟩
  · rw [hresult, hlastOpen]; exact Crc.close_fold _
  · rw [hrpos, hstream.count_eq, hstream.wsize_eq]

end Sys2Proof.Machine
end

section
/-! PROOFS. The control commands `NOP` and `CLRERR` (43_control_and_host.md R81, R82). -/

namespace Sys2Proof.Machine

/-- `NOP`, in the fault state too: ignored or run, it leaves the state (R81, R90). -/
theorem exec_nop (s : State) : exec .nop s = .next s :=
  ite_self _

/-- `CLRERR` outside the fault state: the whole next state (R82). -/
theorem exec_clrerr {s : State} (hf : s.errFatal = false) :
    exec .clrerr s = .next { s with errIllegal := false, errWsize := false } :=
  unlessFatal_of_not_fatal hf _

/-- Settles O15: `exec_nop`, and the two encoding lemmas for format Z. -/
theorem nopLeavesTheStateUnchanged : Obligations.NopLeavesTheStateUnchanged := by
  intro s
  exact ⟨exec_nop s, fun hf cmd hop =>
    ⟨fun h => execWord_of_reserved_clear .nop hop h s, fun h => execWord_of_reserved_set .nop hop h hf⟩⟩

/-- Settles O16: `exec_clrerr`, and the two encoding lemmas for format Z. -/
theorem clrerrClearsTheRecoverableFlags : Obligations.ClrerrClearsTheRecoverableFlags := by
  intro s hf
  exact ⟨exec_clrerr hf, fun cmd hop =>
    ⟨fun h => execWord_of_reserved_clear .clrerr hop h s, fun h => execWord_of_reserved_set .clrerr hop h hf⟩⟩

end Sys2Proof.Machine
end

section
/-! PROOFS. What the stream adapters do with one item of their source (43_control_and_host.md R84, R85). -/

namespace Sys2Proof.Machine

/-- The adapter of R84 ends exactly when its first push answers a state from which the rest ends. -/
theorem checksumStream_cons_eq_next_iff {b : Byte} {rest : List Byte} {s u : State} {pairs : List Pair} :
    checksumStream (b :: rest) s = .next (u, pairs) ↔
      ∃ t later, sendAndStep s (.command (encode (.push b))) = .next t ∧ checksumStream rest t = .next (u, later) ∧
        pairs = (readPair t).toList ++ later := by
  rw [checksumStream]
  cases sendAndStep s (.command (encode (.push b))) with
  | next t =>
    cases hrest : checksumStream rest t with
    | next r => obtain ⟨v, later⟩ := r; simp [hrest, eq_comm, and_assoc]
    | fault f => simp [hrest]
    | refused r => simp [hrest]
  | fault f => simp
  | refused r => simp

section
variable {ε : Type} {s u : State} {out : List (Emitted ε)} {rest : List (Item ε)}

/-- A byte item is pushed as R84 does it. -/
theorem checksumResultStream_byte_eq_next_iff {b : Byte} :
    checksumResultStream (.byte b :: rest) s = .next (u, out) ↔
      ∃ t later, sendAndStep s (.command (encode (.push b))) = .next t ∧
        checksumResultStream rest t = .next (u, later) ∧ out = (readPair t).toList.map .pair ++ later := by
  rw [checksumResultStream]
  cases sendAndStep s (.command (encode (.push b))) with
  | next t =>
    cases hrest : checksumResultStream rest t with
    | next r => obtain ⟨v, later⟩ := r; simp [hrest, eq_comm, and_assoc]
    | fault f => simp [hrest]
    | refused r => simp [hrest]
  | fault f => simp
  | refused r => simp

/-- An error item is forwarded, and the rest runs from the same state. -/
theorem checksumResultStream_error_eq_next_iff {e : ε} :
    checksumResultStream (.error e :: rest) s = .next (u, out) ↔
      ∃ later, checksumResultStream rest s = .next (u, later) ∧ out = .error e :: later := by
  rw [checksumResultStream]
  cases checksumResultStream rest s with
  | next r => obtain ⟨v, later⟩ := r; simp [eq_comm, and_assoc]
  | fault f => simp
  | refused r => simp

end

/-- The adapter of R85 is a left-to-right pass: on two sources in a row it runs the second from where the first ends. -/
theorem checksumResultStream_append {ε : Type} {before after : List (Item ε)} {s t u : State} {out out' : List (Emitted ε)}
    (hbefore : checksumResultStream before s = .next (t, out)) (hafter : checksumResultStream after t = .next (u, out')) :
    checksumResultStream (before ++ after) s = .next (u, out ++ out') := by
  induction before generalizing s out with
  | nil => cases hbefore; exact hafter
  | cons item rest ih =>
    cases item with
    | byte b =>
      obtain ⟨v, later, hpush, hrest, rfl⟩ := checksumResultStream_byte_eq_next_iff.1 hbefore
      exact checksumResultStream_byte_eq_next_iff.2 ⟨v, _, hpush, ih hrest, List.append_assoc _ _ _⟩
    | error e =>
      obtain ⟨later, hrest, rfl⟩ := checksumResultStream_error_eq_next_iff.1 hbefore
      exact checksumResultStream_error_eq_next_iff.2 ⟨_, ih hrest, rfl⟩

/-- On bytes alone the adapter of R85 does what that of R84 does. -/
theorem checksumResultStream_map_byte (ε : Type) {src : List Byte} {s t : State} {pairs : List Pair}
    (h : checksumStream src s = .next (t, pairs)) :
    checksumResultStream (src.map (Item.byte (ε := ε))) s = .next (t, pairs.map .pair) := by
  induction src generalizing s pairs with
  | nil => cases h; rfl
  | cons b rest ih =>
    obtain ⟨v, later, hpush, hrest, rfl⟩ := checksumStream_cons_eq_next_iff.1 h
    exact checksumResultStream_byte_eq_next_iff.2 ⟨v, _, hpush, ih hrest, List.map_append⟩

/-- Settles O52: the error is the first item after `before`, and the adapter passes from left to right. -/
theorem errorItemsPassThrough : Obligations.ErrorItemsPassThrough := by
  intro ε
  refine ⟨fun before after e s t u out out' hbefore hafter => ?_, fun src s t pairs h => checksumResultStream_map_byte ε h⟩
  exact checksumResultStream_append hbefore (checksumResultStream_error_eq_next_iff.2 ⟨out', hafter, rfl⟩)

end Sys2Proof.Machine
end

section
/-! PROOFS. The checksum stream emits every window of its source (42_engine.md R76 to R78, 43_control_and_host.md R84). -/

namespace Sys2Proof.Machine

/-! ### One push and the reads after it -/

/-- With nothing else at the port, the step after a write carries out the word just written (R41; log 21). -/
theorem sendAndStep_of_port_empty {s : State} (hbusy : s.busy = false) (hport : s.port = []) (cmd : Word) :
    sendAndStep s (.command cmd) = execWord cmd s := by
  have hsent : (s.deliver (.command cmd)).port = [.command cmd] := by rw [State.deliver, hport, List.nil_append]
  have htaken : { s.deliver (.command cmd) with port := [] } = s := by rw [← hport]; rfl
  rw [sendAndStep, step_of_command (s := s.deliver (.command cmd)) hbusy hsent, htaken]

/-- What the host reads at a step boundary (R84): `STATUS[0]` is `RVALID`, and the two halves of `RPOS` make it up. -/
theorem readPair_of_not_busy {s : State} (hbusy : s.busy = false) :
    readPair s = if s.rvalid then some (s.rpos, s.result) else none := by
  have hstatus : (readPort s (portNumber .status)).getLsbD 0 = s.rvalid := by
    rw [portNumber, readPort_status, status_getLsbD]; simp
  have hrpos : readPort s (portNumber .rposHi) ++ readPort s (portNumber .rposLo) = s.rpos := by
    rw [readPort_of_portReg hbusy (reg := .rposHi) rfl, readPort_of_portReg hbusy (reg := .rposLo) rfl]
    exact (BitVec.extractLsb'_append_extractLsb'_eq_extractLsb' rfl).trans BitVec.extractLsb'_eq_self
  have hresult : readPort s (portNumber .result) = s.result := readPort_of_portReg hbusy (reg := .result) rfl
  rw [readPair, hstatus, hrpos, hresult]

/-- A push that leaves the window short of `w` bytes reports nothing (R72). -/
theorem execPush_rvalid_of_filling {b : Byte} {s t : State} (hf : s.errFatal = false)
    (hlt : s.count.toNat + 1 < s.wsize.toNat) (h : execPush b s = .next t) : t.rvalid = false := by
  have hfill : pushFilling b (s.count.toNat + 1) s = .next t := (exec_push_of_filling hf hlt b).symm.trans h
  rw [pushFilling] at hfill
  split at hfill
  · cases hfill; rfl
  · cases hfill

/-- At a step boundary with nothing at the port, the first write of R84 is carried out as its `PUSH`. -/
theorem checksumStream_cons_of_execPush {b : Byte} {rest : List Byte} {s t u : State} {pairs : List Pair} (hbusy : s.busy = false)
    (hport : s.port = []) (hpush : execPush b s = .next t) (hrest : checksumStream rest t = .next (u, pairs)) :
    checksumStream (b :: rest) s = .next (u, (readPair t).toList ++ pairs) := by
  have hsent := (sendAndStep_of_port_empty hbusy hport _).trans
    (execWord_of_decode_ok (encodedCommandDecodesToItself (.push b)) s)
  exact checksumStream_cons_eq_next_iff.2 ⟨t, pairs, hsent.trans hpush, hrest, rfl⟩

/-! ### The windows of a source -/

/-- The pairs of R84: every window of `w` bytes in `src`, by its position. -/
def windowPairs (w : Nat) (src : List Byte) : List Pair :=
  (List.range (src.length + 1 - w)).map fun i => (BitVec.ofNat 64 i, Crc.checksum ((src.drop i).take w))

/-- Fewer than `w` bytes have no window. -/
theorem windowPairs_of_lt {w : Nat} {src : List Byte} (h : src.length < w) : windowPairs w src = [] := by
  rw [windowPairs, Nat.sub_eq_zero_of_le h, List.range_zero, List.map_nil]

/-- One more byte that completes a window adds that window, the last `w` bytes, after the others. -/
theorem windowPairs_append_singleton {w : Nat} {src : List Byte} {b : Byte} (h : w ≤ src.length + 1) :
    windowPairs w (src ++ [b]) =
      windowPairs w src ++ [(BitVec.ofNat 64 (src.length + 1 - w), Crc.checksum (lastBytes w (src ++ [b])))] := by
  have hlength : (src ++ [b]).length = src.length + 1 := by rw [List.length_append, List.length_singleton]
  have hlast : (src ++ [b]).drop (src.length + 1 - w) = lastBytes w (src ++ [b]) := by rw [lastBytes, hlength]
  have hfit : (lastBytes w (src ++ [b])).length ≤ w := by rw [lastBytes, List.length_drop]; omega
  rw [windowPairs, hlength, Nat.sub_add_comm h, List.range_succ, List.map_append, List.map_singleton, hlast,
    List.take_of_length_le hfit, windowPairs]
  congr 1
  refine List.map_congr_left fun i hi => ?_
  rw [List.mem_range] at hi
  rw [List.drop_append_of_le_length (by omega), List.take_append_of_le_length (by rw [List.length_drop]; omega)]

/-! ### The pairs of a stream -/

section
variable {c : Config} {w : Nat} {pushed : List Byte} {s t : State}

/-- After a stream that reports, the host reads the position and the checksum of the last `w` bytes (R76). -/
theorem State.HasStream.readPair_of_le (h : s.HasStream c w pushed) (hle : w ≤ pushed.length) :
    readPair s = some (BitVec.ofNat 64 (pushed.length - w), Crc.checksum (lastBytes w pushed)) := by
  obtain ⟨hrvalid, hopen, hresult, hrpos⟩ := h.reports hle
  rw [State.OpenCrcOf, h.window_eq, Option.map_some, Option.some_inj] at hopen
  rw [h.count_eq, h.wsize_eq] at hrpos
  rw [readPair_of_not_busy h.inv.context.not_busy, if_pos hrvalid, hresult, ← hopen, Crc.close_fold, ← hrpos,
    BitVec.ofNat_toNat, BitVec.setWidth_eq]

/-- What the host reads after a push is the pair that its byte adds (R77). -/
theorem State.HasStream.windowPairs_push (h : s.HasStream c w pushed) (hc : s.count.toNat ≠ 2 ^ 64 - 1) {b : Byte}
    (hp : execPush b s = .next t) : windowPairs w (pushed ++ [b]) = windowPairs w pushed ++ (readPair t).toList := by
  have ht := h.push hc hp
  have hlength : (pushed ++ [b]).length = pushed.length + 1 := by rw [List.length_append, List.length_singleton]
  obtain hlt | hle := Nat.lt_or_ge (pushed.length + 1) w
  · have hrvalid := execPush_rvalid_of_filling h.inv.context.not_fatal (by rwa [h.count_eq, h.wsize_eq]) hp
    rw [windowPairs_of_lt (hlength ▸ hlt), windowPairs_of_lt (Nat.lt_of_succ_lt hlt),
      readPair_of_not_busy ht.inv.context.not_busy, hrvalid]
    rfl
  · rw [windowPairs_append_singleton hle, ht.readPair_of_le (hlength ▸ hle), hlength, Option.toList_some]

/-- On a stream of the bytes `pushed` the adapter emits the pairs that the bytes of its source add (R77). -/
theorem State.HasStream.checksumStream_windowPairs (h : s.HasStream c w pushed) (hport : s.port = []) {src : List Byte}
    (hlength : (pushed ++ src).length < 2 ^ 64) :
    ∃ t pairs, checksumStream src s = .next (t, pairs) ∧ windowPairs w (pushed ++ src) = windowPairs w pushed ++ pairs := by
  induction src generalizing s pushed with
  | nil => exact ⟨s, [], rfl, by rw [List.append_nil, List.append_nil]⟩
  | cons b rest ih =>
    have hc : s.count.toNat ≠ 2 ^ 64 - 1 := by
      rw [h.count_eq]; rw [List.length_append, List.length_cons] at hlength; omega
    obtain ⟨t, ht⟩ := execPush_completes h.inv b
    obtain ⟨-, -, htport⟩ := exec_frame (i := .push b) ht
    rw [List.append_cons] at hlength ⊢
    obtain ⟨u, pairs, hu, hpairs⟩ := ih (h.push hc ht) (htport.trans hport) hlength
    refine ⟨u, _, checksumStream_cons_of_execPush h.inv.context.not_busy hport ht hu, ?_⟩
    rw [hpairs, h.windowPairs_push hc ht, List.append_assoc]

end

/-- In the zero window the adapter emits nothing (R78). -/
theorem checksumStream_of_zeroWindow {s : State} (h : s.Inv) (hport : s.port = []) (hw : s.wsize = 0) {src : List Byte}
    (hlength : s.count.toNat + src.length < 2 ^ 64) : ∃ t, checksumStream src s = .next (t, []) := by
  induction src generalizing s with
  | nil => exact ⟨s, rfl⟩
  | cons b rest ih =>
    rw [List.length_cons] at hlength
    have hpush := pushInTheZeroWindowOnlyCounts s b h.context.not_fatal (by omega) hw
    have hinv := execPush_inv h hpush
    have hcount : (s.count + 1).toNat = s.count.toNat + 1 :=
      BitVec.toNat_add_of_lt (y := 1) (show s.count.toNat + 1 < 2 ^ 64 by omega)
    obtain ⟨u, hu⟩ := ih hinv hport hw (by rw [hcount]; omega)
    have hpairs := checksumStream_cons_of_execPush h.context.not_busy hport hpush hu
    rw [readPair_of_not_busy hinv.context.not_busy] at hpairs
    exact ⟨u, hpairs⟩

/-- Settles O51: in the zero window nothing is emitted; otherwise the stream begins without a byte, so without a window. -/
theorem checksumStreamEmitsEveryWindow : Obligations.ChecksumStreamEmitsEveryWindow := by
  intro s src hinv hport hcount hlength
  by_cases hw : s.wsize = 0
  · rw [if_pos hw]
    exact checksumStream_of_zeroWindow hinv hport hw (by simpa [hcount] using hlength)
  · have hpos : 1 ≤ s.wsize.toNat := Nat.pos_of_ne_zero (BitVec.toNat_ne_iff_ne.2 hw)
    obtain ⟨t, pairs, ht, hpairs⟩ := (State.HasStream.of_count_zero hinv hcount hpos).checksumStream_windowPairs hport hlength
    rw [List.nil_append, windowPairs_of_lt (src := []) hpos, List.nil_append] at hpairs
    exact ⟨t, by rw [if_neg hw, ht, ← hpairs, windowPairs]⟩

end Sys2Proof.Machine
end

section
/-! PROOFS. Steps that carry out no command (60_exceptions.md R101, 70_reset_and_hazards.md R102), the fault state (R90), and that
every command and every step completes (R88, R109). -/

namespace Sys2Proof.Machine

/-- Settles O13: a ready block that finds nothing at its port is idle. -/
theorem idleBlockHoldsItsState : Obligations.IdleBlockHoldsItsState := by
  intro s hbusy hport
  simp [step, fetch, hport, hbusy]

/-- A hardware reset that is the oldest event is carried out whatever the block is doing (R102). -/
theorem step_of_reset {s : State} {rest : List PortEvent} (hport : s.port = .reset :: rest) :
    step s = .next (hardwareReset { s with port := rest }) := by
  simp [step, fetch, hport]

/-! ### The fault state -/

/-- Every command's rule begins with the check of `ERR_FATAL` (R90, R92). -/
theorem exec_of_fatal {s : State} (hf : s.errFatal = true) (i : Instr) : exec i s = .next s := by
  cases i <;> exact unlessFatal_of_fatal hf _

/-- So does an illegal word's rule: the block ignores every word (R49, R90). -/
theorem execWord_of_fatal {s : State} (hf : s.errFatal = true) (cmd : Word) : execWord cmd s = .next s := by
  cases hdecode : decode cmd with
  | ok i => exact (execWord_of_decode_ok hdecode s).trans (exec_of_fatal hf i)
  | error e => exact (execWord_of_decode_error hdecode s).trans (unlessFatal_of_fatal hf _)

/-- Settles O10: the word leaves the port and is ignored; reads do not look at `ERR_FATAL`; hardware reset clears it. -/
theorem fatalBlockIgnoresEveryWordUntilReset : Obligations.FatalBlockIgnoresEveryWordUntilReset := by
  refine ⟨fun s cmd rest hbusy hf hport => ?_, fun s i hf => exec_of_fatal hf i, fun s hbusy hf => ⟨?_, ?_⟩,
    fun s rest _ hport => ⟨_, step_of_reset hport, rfl⟩⟩
  · calc step s = execWord cmd { s with port := rest } := step_of_command hbusy hport
      _ = .next { s with port := rest } := execWord_of_fatal (s := { s with port := rest }) hf cmd
  · rw [readPort_status, status_getLsbD]
    simp [hf]
  · exact readPort_of_portReg hbusy (reg := .result) rfl

/-! ### Every step completes -/

/-- By what is the oldest event at the port. That the idle block takes a step at all is the model's choice (log 2). -/
theorem step_completes {s : State} (h : s.Inv) : ∃ t, step s = .next t := by
  have hbusy := h.context.not_busy
  rcases hport : s.port with _ | ⟨cmd | _, rest⟩
  · exact ⟨s, idleBlockHoldsItsState s hbusy hport⟩
  · rw [step_of_command hbusy hport]
    exact execWord_completes (s := { s with port := rest }) h cmd
  · exact ⟨_, step_of_reset hport⟩

/-- Settles O47: under the invariants no `PUSH` reaches an absent slot, and a step is idle, a reset, or a command word's. -/
theorem everyCommandCompletes : Obligations.EveryCommandCompletes :=
  ⟨fun _ i h => exec_completes h i, fun _ => step_completes⟩

end Sys2Proof.Machine
end

section
/-! PROOFS. A command that raises an error changes only the error's flag (60_exceptions.md R88, R89). -/

namespace Sys2Proof.Machine

/-- A `PUSH` that ends in the fault state has raised its breach, and stored nothing (R72, R89). -/
theorem execPush_of_breach {b : Byte} {s t : State} (hf : s.errFatal = false) (h : execPush b s = .next t)
    (ht : t.errFatal = true) : t = raise .invariantBreach s := by
  obtain ⟨-, -, rfl⟩ | ⟨-, -, -, rfl⟩ | ⟨-, -, -, -, rfl⟩ | ⟨-, -, -, -, _, -, rfl⟩ | ⟨-, -, -, -, -, -, _, -, rfl⟩ |
    ⟨-, -, -, rfl, -⟩ := (execPush_cases h).resolve_left (by simp [hf])
  · simp [hf] at ht
  · simp [hf] at ht
  · simp [hf] at ht
  · simp [hf] at ht
  · simp [hf] at ht
  · rfl

/-- Settles O33: each cause gives the whole next state, and a newly set flag has its cause by R26. -/
theorem erroneousCommandChangesOnlyItsFlag : Obligations.ErroneousCommandChangesOnlyItsFlag := by
  intro s t cmd hf hx
  have hnext {u : State} (hu : execWord cmd s = .next u) : t = u := Host.Outcome.next.inj (hx.symm.trans hu)
  have hillegal : (∃ e, decode cmd = .error e) → t = { s with errIllegal := true } := fun ⟨_, hdecode⟩ =>
    hnext ((execWord_of_decode_error hdecode s).trans (execIllegal_of_not_fatal hf))
  have hwindow : (∃ w : WindowSize, decode cmd = .ok (.cfg w) ∧ s.config.maxWindow.toNat < w.toNat) →
      t = { s with errWsize := true } := fun ⟨_, hdecode, hw⟩ =>
    hnext ((execWord_of_decode_ok hdecode s).trans (exec_cfg_of_gt hf hw))
  have hlimit : (∃ b : Byte, decode cmd = .ok (.push b) ∧ s.count.toNat = 2 ^ 64 - 1) →
      t = { s with errCount := true } := fun ⟨b, hdecode, hc⟩ =>
    hnext ((execWord_of_decode_ok hdecode s).trans (exec_push_of_limit hf hc b))
  obtain ⟨hillegalFlag, hwsizeFlag, hcountFlag, hfatalFlag⟩ := stickyFlagsAreSetAndClearedAsR26Says s t cmd hf hx
  refine ⟨hillegal, hwindow, hlimit, fun ht => ?_,
    fun hs ht => hillegal ((hillegalFlag.1 ht).resolve_right (by simp [hs])),
    fun hs ht => hwindow ((hwsizeFlag.1 ht).resolve_right (by simp [hs])),
    fun hs ht => hlimit ((hcountFlag.1 ht).resolve_right (by simp [hs]))⟩
  obtain ⟨⟨b, hdecode⟩, -⟩ := hfatalFlag.1 ht
  exact execPush_of_breach hf ((execWord_of_decode_ok hdecode s).symm.trans hx) ht

end Sys2Proof.Machine
end

section
/-! PROOFS. The reset state, hardware reset, a busy block, and the words outside the stream (70_reset_and_hazards.md R102, R105,
R106). -/

namespace Sys2Proof.Machine

/-! ### Reset -/

/-- Hardware reset keeps the parameter and the host's undelivered events, and of the rest nothing (R102; log 10). -/
theorem hardwareReset_eq (s : State) : hardwareReset s = { State.resetWith s.config with port := s.port } := rfl

theorem hardwareReset_congr {s t : State} (hconfig : s.config = t.config) (hport : s.port = t.port) :
    hardwareReset s = hardwareReset t := by
  rw [hardwareReset_eq, hardwareReset_eq, hconfig, hport]

theorem hardwareReset_resetValues (s : State) : (hardwareReset s).ResetValues :=
  ⟨rfl, Crc.rollTable_zero_get, Memory.read_empty, rfl, rfl, rfl, rfl, rfl, rfl, rfl, rfl, rfl, rfl, rfl, rfl, rfl, rfl,
    status_hardwareReset s, readPort_ckresult_of_init rfl rfl⟩

/-- Settles O12: hardware reset leaves a reset state as it is, so the reset state has the values hardware reset gives. -/
theorem resetStateHasTheResetValues : Obligations.ResetStateHasTheResetValues := by
  refine ⟨fun c => ⟨?_, rfl, rfl⟩, rfl⟩
  have hreset : hardwareReset (State.resetWith c) = State.resetWith c := hardwareReset_eq _
  exact hreset ▸ hardwareReset_resetValues (State.resetWith c)

/-- Settles O11: the step is `hardwareReset`, which reads only the parameter and the port, and no command changes those. -/
theorem hardwareResetGivesTheResetValues : Obligations.HardwareResetGivesTheResetValues := by
  intro s rest hport
  refine ⟨_, step_of_reset hport, hardwareReset_resetValues _, phase_of_zeroWindow rfl, fun _ => rfl, rfl, rfl,
    fun i u hexec => ?_⟩
  obtain ⟨hconfig, -, hportKept⟩ := exec_frame hexec
  exact hardwareReset_congr hconfig hportKept

/-! ### A busy block -/

/-- A step is refused when there is nothing the block may take (R105; log 7). -/
theorem step_of_stop {s : State} {r : Refusal} (hfetch : fetch s = .stop r) : step s = .refused r := by
  rw [step, hfetch]

/-- Settles O14: a busy block stops at a command word and at an empty port, each for its own reason. -/
theorem busyBlockTakesNoCommand : Obligations.BusyBlockTakesNoCommand := by
  refine ⟨fun s cmd rest hbusy hport => step_of_stop ?_, fun s hbusy hport => step_of_stop ?_⟩
  · simp [fetch, hport, hbusy]
  · simp [fetch, hport, hbusy]

/-! ### Words outside the stream -/

/-- Settles O34: such a word changes at most `CKACC`, `TDATA` and the flags that have a recovery (`SameStream`). -/
theorem commandsOutsideTheStreamLeaveItAlone : Obligations.CommandsOutsideTheStreamLeaveItAlone := by
  intro s t cmd hx hpush hstart
  obtain ⟨_, _, _, _, _, rfl⟩ := execWord_sameStream hx hpush hstart
  exact ⟨rfl, rfl, rfl, rfl, rfl, rfl, rfl, rfl⟩

end Sys2Proof.Machine
end

section
/-! PROOFS. The words written out in the spec: those of commands, and an illegal word for each reason (30_encoding.md R49 to R51,
95_test_vectors.md ILL-1). -/

namespace Sys2Proof

theorem decode_of_encode_eq {i : Instr} {cmd : Word} (h : encode i = cmd) : decode cmd = .ok i :=
  h ▸ encodedCommandDecodesToItself i

/-- The reason an illegal word is refused for is read off its opcode alone (R49). -/
theorem decode_eq_error_of_illegal {cmd : Word} (h : ∃ e, decode cmd = .error e) :
    decode cmd = .error (if 8 ≤ (opField cmd).toNat then .reservedOpcode else .reservedBits) := by
  obtain ⟨i, -, hok⟩ | ⟨hnone, -⟩ := decode_cases cmd
  · simp [hok] at h
  · simp only [opcodeTable, List.forall_mem_cons] at hnone
    simp only [decode, hnone, Bool.false_eq_true, if_false, apply_ite Except.error]

theorem decode_eq_reservedOpcode {cmd : Word} (hop : 8 ≤ (opField cmd).toNat) : decode cmd = .error .reservedOpcode := by
  rw [decode_eq_error_of_illegal (exists_decode_eq_error_of_reserved_opcode hop), if_pos hop]

theorem opField_pattern_lt (i : Instr) : (opField i.row.pattern).toNat < 8 :=
  (by decide : ∀ r ∈ opcodeTable, (opField r.pattern).toNat < 8) i.row i.row_mem

/-- A word with a command's opcode and a reserved bit of the command's format set is refused for the bit (R49). -/
theorem decode_eq_reservedBits (i : Instr) {cmd : Word} (hop : opField cmd = opField i.row.pattern)
    (hbits : cmd.extractLsb' i.operandBits (28 - i.operandBits) ≠ 0) : decode cmd = .error .reservedBits := by
  rw [decode_eq_error_of_illegal ((exists_decode_eq_error_iff i hop).2 hbits), hop,
    if_neg (Nat.not_le.2 (opField_pattern_lt i))]

/-- Settles O6: each legal word is the encoding of its command; 0x60000200 is `RDTAB`'s opcode with bit 9 set, and the opcode of
0x80000000 is reserved. -/
theorem specExampleWordsDecode : Obligations.SpecExampleWordsDecode := by
  refine ⟨decode_of_encode_eq ?_, decode_of_encode_eq ?_, decode_of_encode_eq ?_, decode_of_encode_eq ?_,
    decode_of_encode_eq ?_, decode_of_encode_eq ?_, decode_of_encode_eq ?_, decode_of_encode_eq ?_, decode_of_encode_eq ?_,
    decode_of_encode_eq ?_, decode_eq_reservedBits (.rdtab .base 0) ?_ ?_, decode_eq_reservedOpcode ?_⟩
  all_goals decide

end Sys2Proof
end
